-- ==== Sys2Proof/Word.lean ====
section
/-! DEFINITION. The word types of the block (spec 00_scope.md R9, 30_encoding.md R70) and nothing else.
Everything a test could show wrong stands in Decode.lean or under Machine/. -/

namespace Sys2Proof

/-- One byte of `BUF` and of the stream (10_state.md R30). -/
abbrev Byte := BitVec 8

/-- A 32-bit register or packet word (R9, R21, R70). -/
abbrev Word := BitVec 32

/-- One command packet: the three 32-bit words `CMD`, `ARG0`, `ARG1` (30_encoding.md R70). -/
structure Packet where
  cmd  : Word
  arg0 : Word
  arg1 : Word
  deriving DecidableEq, Repr

end Sys2Proof
end

