-- ==== Sys2Proof/Syntax.lean ====
section
/-! DEFINITION. The 26 commands of BFC-1 (spec 30_encoding.md R71, R74; opcode_table.json), one constructor a row.
A constructor holds exactly the packet parts its format reads, at the widths R73 gives them: parts a format ignores
(R77) are not in it. Operands out of range are kept, and the command is refused when it runs (R79). -/

namespace Sys2Proof

inductive Instr where
  | nop
  | stat
  | reset
  | getr (reg : BitVec 8)
  | rdu (w : BitVec 8)
  | rds (w : BitVec 8)
  | wru (w : BitVec 8) (v : Word)
  | wrs (w : BitVec 8) (v : Word)
  | seek (pos : Word)
  | tell
  | bufrd (idx : BitVec 16)
  | bufwr (idx : BitVec 16) (b : Byte)
  | ckcCrc24q (start : BitVec 16) (len : Word)
  | ckcCrc32 (start : BitVec 16) (len : Word)
  | ckcFlet (start : BitVec 16) (len : Word)
  | ckcXor (start : BitVec 16) (len : Word)
  | ckcHam (word : Word)
  | ckvCrc24q (start : BitVec 16) (len : Word) (expected : BitVec 24)
  | ckvCrc32 (start : BitVec 16) (len : Word) (expected : BitVec 32)
  | ckvFlet (start : BitVec 16) (len : Word) (expected : BitVec 16)
  | ckvXor (start : BitVec 16) (len : Word) (expected : BitVec 16)
  | ckvHam (word : Word) (expected : BitVec 6)
  | hamdec (word : Word)
  | push (b : Byte)
  | msmdec (sys : BitVec 4) (zero : BitVec 3) (x : BitVec 1) (p : Word) (l : Word)
  | msmrd (sel : BitVec 8) (idx : BitVec 16)
  deriving DecidableEq, Repr

end Sys2Proof
end

