-- ==== Sys2Proof/Decode.lean ====
section
/-! DEFINITION. Decoding of a command packet, total, and the encoder (spec 30_encoding.md R70 to R77).
A reserved packet is rejected by name here, and the machine's answer to it is the refusal of R78 (Step.lean). -/

namespace Sys2Proof

/-- Why a packet is no command (R79, first and fourth rows). -/
inductive DecodeError where
  /-- `OP` is not in the table of R74. -/
  | reservedOpcode (op : BitVec 8)
  /-- `CKC` or `CKV` with `W > 4`. -/
  | reservedAlgorithm (op : BitVec 8) (w : BitVec 8)
  deriving DecidableEq, Repr

/-- `OP = CMD[31:24]` (R70). -/
def Packet.op (p : Packet) : BitVec 8 := p.cmd.extractLsb' 24 8

/-- `W = CMD[23:16]` (R70). -/
def Packet.w (p : Packet) : BitVec 8 := p.cmd.extractLsb' 16 8

/-- `A = CMD[15:0]` (R70). -/
def Packet.a (p : Packet) : BitVec 16 := p.cmd.extractLsb' 0 16

/-- The `CKC` rows, selected by the algorithm code (R74, R75). -/
def decodeCkc (p : Packet) : Except DecodeError Instr :=
  match p.w with
  | 0#8 => .ok (.ckcCrc24q p.a p.arg0)
  | 1#8 => .ok (.ckcCrc32 p.a p.arg0)
  | 2#8 => .ok (.ckcFlet p.a p.arg0)
  | 3#8 => .ok (.ckcXor p.a p.arg0)
  | 4#8 => .ok (.ckcHam p.arg0)
  | w   => .error (.reservedAlgorithm p.op w)

/-- The `CKV` rows (R74, R75); only the low bits of `ARG1` that R73 names are kept. -/
def decodeCkv (p : Packet) : Except DecodeError Instr :=
  match p.w with
  | 0#8 => .ok (.ckvCrc24q p.a p.arg0 (p.arg1.extractLsb' 0 24))
  | 1#8 => .ok (.ckvCrc32 p.a p.arg0 p.arg1)
  | 2#8 => .ok (.ckvFlet p.a p.arg0 (p.arg1.extractLsb' 0 16))
  | 3#8 => .ok (.ckvXor p.a p.arg0 (p.arg1.extractLsb' 0 16))
  | 4#8 => .ok (.ckvHam p.arg0 (p.arg1.extractLsb' 0 6))
  | w   => .error (.reservedAlgorithm p.op w)

/-- The opcode map (R74). -/
def decode (p : Packet) : Except DecodeError Instr :=
  match p.op with
  | 0x00#8 => .ok .nop
  | 0x01#8 => .ok .stat
  | 0x02#8 => .ok .reset
  | 0x03#8 => .ok (.getr p.w)
  | 0x10#8 => .ok (.rdu p.w)
  | 0x11#8 => .ok (.rds p.w)
  | 0x12#8 => .ok (.wru p.w p.arg0)
  | 0x13#8 => .ok (.wrs p.w p.arg0)
  | 0x14#8 => .ok (.seek p.arg0)
  | 0x15#8 => .ok .tell
  | 0x16#8 => .ok (.bufrd p.a)
  | 0x17#8 => .ok (.bufwr p.a (p.arg0.extractLsb' 0 8))
  | 0x20#8 => decodeCkc p
  | 0x21#8 => decodeCkv p
  | 0x22#8 => .ok (.hamdec p.arg0)
  | 0x30#8 => .ok (.push (p.a.extractLsb' 0 8))
  | 0x40#8 => .ok (.msmdec (p.w.extractLsb' 4 4) (p.w.extractLsb' 1 3) (p.w.extractLsb' 0 1) p.arg0 p.arg1)
  | 0x41#8 => .ok (.msmrd p.w p.a)
  | op     => .error (.reservedOpcode op)

/-- A packet from its fields, `CMD = OP<<24 | W<<16 | A` (R81). -/
def packetOf (op w : BitVec 8) (a : BitVec 16) (arg0 arg1 : Word) : Packet := ⟨op ++ w ++ a, arg0, arg1⟩

/-- The encoder: an assembler writes zeros in the parts a format does not read (R77, R81). -/
def encode : Instr → Packet
  | .nop                      => packetOf 0x00 0 0 0 0
  | .stat                     => packetOf 0x01 0 0 0 0
  | .reset                    => packetOf 0x02 0 0 0 0
  | .getr reg                 => packetOf 0x03 reg 0 0 0
  | .rdu w                    => packetOf 0x10 w 0 0 0
  | .rds w                    => packetOf 0x11 w 0 0 0
  | .wru w v                  => packetOf 0x12 w 0 v 0
  | .wrs w v                  => packetOf 0x13 w 0 v 0
  | .seek pos                 => packetOf 0x14 0 0 pos 0
  | .tell                     => packetOf 0x15 0 0 0 0
  | .bufrd idx                => packetOf 0x16 0 idx 0 0
  | .bufwr idx b              => packetOf 0x17 0 idx (b.setWidth 32) 0
  | .ckcCrc24q start len      => packetOf 0x20 0 start len 0
  | .ckcCrc32 start len       => packetOf 0x20 1 start len 0
  | .ckcFlet start len        => packetOf 0x20 2 start len 0
  | .ckcXor start len         => packetOf 0x20 3 start len 0
  | .ckcHam word              => packetOf 0x20 4 0 word 0
  | .ckvCrc24q start len e    => packetOf 0x21 0 start len (e.setWidth 32)
  | .ckvCrc32 start len e     => packetOf 0x21 1 start len e
  | .ckvFlet start len e      => packetOf 0x21 2 start len (e.setWidth 32)
  | .ckvXor start len e       => packetOf 0x21 3 start len (e.setWidth 32)
  | .ckvHam word e            => packetOf 0x21 4 0 word (e.setWidth 32)
  | .hamdec word              => packetOf 0x22 0 0 word 0
  | .push b                   => packetOf 0x30 0 (b.setWidth 16) 0 0
  | .msmdec sys zero x p l    => packetOf 0x40 (sys ++ zero ++ x) 0 p l
  | .msmrd sel idx            => packetOf 0x41 sel idx 0 0

/-- The packet of a number whose bit 0 is the least significant bit of `CMD`; bits at and above `nbits` are 0. -/
def packetOfNumber (nbits w : Nat) : Packet :=
  let v := w % 2 ^ nbits
  ⟨BitVec.ofNat 32 v, BitVec.ofNat 32 (v / 2 ^ 32), BitVec.ofNat 32 (v / 2 ^ 64)⟩

/-- The instruction the decoder reads from a row's word, numbered as opcode_table.json numbers its bits. -/
def decodeTableWord (nbits w : Nat) : Option Instr :=
  match decode (packetOfNumber nbits w) with
  | .ok i    => some i
  | .error _ => none

end Sys2Proof
end

