-- ==== Sys2Proof/Machine/ResultFile.lean ====
section
/-! DEFINITION. The MSM result file as data (spec 10_state.md R32, R33): header part, satellite part, cell part.
Every field has the width R33 gives it. The two lists hold exactly the entries below the counts:
entries at and above `MH_NSAT`, `MH_NCELL` are unspecified and no command shows them (93 U2; log entry 8). -/

namespace Sys2Proof

/-- The `sys` codes of `MSMDEC` (30_encoding.md R76). -/
inductive GnssSys where
  | gps | glo | gal | sbs | qzs | bds
  deriving DecidableEq, Repr, Inhabited

/-- The two MSM body variants (43_msm.md R201): `W[0] = 0` compact, `1` extended. -/
inductive Variant where
  | compact | extended
  deriving DecidableEq, Repr, Inhabited

/-- Header part of the result file (R33, first table). -/
structure MsmHeader where
  /-- `MH_SYS` (4 bits, shown as its R76 code). -/
  sys      : GnssSys
  /-- `MH_VAR` (1 bit). -/
  var      : Variant
  msgnum   : BitVec 12
  station  : BitVec 12
  dow      : BitVec 3
  epoch    : BitVec 31
  multi    : BitVec 1
  iods     : BitVec 3
  session  : BitVec 7
  clksteer : BitVec 2
  extclk   : BitVec 2
  smooth   : BitVec 1
  smint    : BitVec 3
  satmask  : BitVec 64
  sigmask  : BitVec 32
  cellmask : BitVec 64
  nsat     : BitVec 7
  nsig     : BitVec 6
  ncell    : BitVec 7
  bits     : BitVec 16
  deriving DecidableEq, Repr, Inhabited

/-- One entry `SAT[i]` (R33, second table). -/
structure SatEntry where
  id     : BitVec 7
  prn    : BitVec 16
  int    : BitVec 8
  frac   : BitVec 10
  roughq : BitVec 18
  ext    : BitVec 4
  /-- `S_RR`, signed. -/
  rr     : BitVec 14
  rrv    : Bool
  deriving DecidableEq, Repr, Inhabited

/-- One entry `CELL[k]` (R33, third table). -/
structure CellEntry where
  sat   : BitVec 6
  sig   : BitVec 5
  sigid : BitVec 6
  /-- `C_FPR`, signed. -/
  fpr   : BitVec 20
  /-- `C_FCP`, signed. -/
  fcp   : BitVec 24
  lock  : BitVec 10
  half  : BitVec 1
  cnr   : BitVec 10
  /-- `C_FRR`, signed. -/
  frr   : BitVec 15
  prv   : Bool
  /-- `C_PRQ`, signed. -/
  prq   : BitVec 64
  cpv   : Bool
  /-- `C_CPQ`, signed. -/
  cpq   : BitVec 64
  rrv   : Bool
  /-- `C_RRQ`, signed. -/
  rrq   : BitVec 32
  cnrq  : BitVec 14
  deriving DecidableEq, Repr, Inhabited

/-- The MSM result file (R32, R33). -/
structure MsmFile where
  hdr   : MsmHeader
  sats  : List SatEntry
  cells : List CellEntry
  deriving DecidableEq, Repr, Inhabited

/-- A satellite entry of zeros. -/
def SatEntry.zero : SatEntry := ⟨0, 0, 0, 0, 0, 0, 0, false⟩

/-- A cell entry of zeros. -/
def CellEntry.zero : CellEntry := ⟨0, 0, 0, 0, 0, 0, 0, 0, 0, false, 0, false, 0, false, 0, 0⟩

/-- The result file of zeros with no entries. R32, R37 leave the reset contents unspecified, and `MSMRD`
is refused while `MVALID = 0`, so no command shows it. DESIGN CHOICE (log entry 7). -/
def MsmFile.zero : MsmFile :=
  ⟨⟨.gps, .compact, 0, 0, 0, 0, 0, 0, 0, 0, 0, 0, 0, 0, 0, 0, 0, 0, 0, 0⟩, [], []⟩

end Sys2Proof
end

