-- ==== Sys2Proof/Config.lean ====
section
/-! DEFINITION. The configuration record `Cfg` (spec 00_scope.md R7, 43_msm.md R203) and the free values.
A configuration is plain data and is a field of State: a statement over every state is a statement over every
configuration. Its default values and its well-formedness (R8) are in Machine/Instance.lean. -/

namespace Sys2Proof

/-- The six protocols (R14, 42_framer.md R152). -/
inductive Proto where
  | rtcm3 | bin | ubx | nmea | legacy | asterix
  deriving DecidableEq, Repr

/-- The six parity masks `HAM_MASK[0..5]` (R7, 41_checksum.md R125).
A mask with a bit below 6, which R8 does not refuse, falls under log entry 25. -/
structure HamMasks where
  m0 : Word
  m1 : Word
  m2 : Word
  m3 : Word
  m4 : Word
  m5 : Word
  deriving DecidableEq, Repr

/-- `PRN_OFF[sys]` (43_msm.md R203, R229). -/
structure PrnOffsets where
  gps : BitVec 16
  glo : BitVec 16
  gal : BitVec 16
  sbs : BitVec 16
  qzs : BitVec 16
  bds : BitVec 16
  deriving DecidableEq, Repr

/-- The OPEN constants of 43_msm.md R203 (those marked gk, and `BDS_OFF_MS`, 93 G21). The widths D0 gives are
not here: they are fixed in Machine/MsmLayout.lean. -/
structure MsmCfg where
  wMulti   : Nat
  wIods    : Nat
  wSession : Nat
  wClk     : Nat
  wExtclk  : Nat
  wSmooth  : Nat
  wSmint   : Nat
  wExt     : Nat
  wRr      : Nat
  wFrr     : Nat
  rrAbsent  : Int
  frrAbsent : Int
  /-- `E_FPR`, compact and extended: the unit is `2^-E` ms. The result unit `2^-31` ms bounds it by 31. -/
  eFprC : Fin 32
  eFprX : Fin 32
  /-- `E_FCP`, compact and extended. -/
  eFcpC : Fin 32
  eFcpX : Fin 32
  cnrMulC : Nat
  cnrMulX : Nat
  rrMul   : Int
  prnOff  : PrnOffsets
  bdsOffMs : Nat
  /-- `FCN_BIAS`, `FCN_UNKNOWN`, `C_LIGHT` enter the host's formulas only (R225, R230; 92 D36). -/
  fcnBias    : Nat
  fcnUnknown : Nat
  cLight     : Nat
  deriving DecidableEq, Repr

/-- The configuration record (R7). -/
structure Cfg where
  /-- `PROTO`. -/
  proto  : Proto
  /-- `BUF_CAP`, as wide as the register `BUFCAP` (10_state.md R29). -/
  bufCap : BitVec 17
  /-- `MIDSYNC` of `BIN`, `UBX`, `ASTERIX` (OPEN); `RTCM3` and `NMEA` are fixed. -/
  midsyncBin : Bool
  midsyncUbx : Bool
  midsyncAst : Bool
  /-- `CRC24_POLY`, 25 bits with the leading 1. -/
  crc24Poly : BitVec 25
  crc24Init : BitVec 24
  crc32Poly   : Word
  crc32Init   : Word
  crc32Xorout : Word
  hamMask : HamMasks
  legPreamble : Byte
  binSync0 : Byte
  binSync1 : Byte
  binSync2 : Byte
  binHlenOff : Nat
  binPlenOff : Nat
  binIdOff   : Nat
  binLknown  : Nat
  /-- `AST_CAT` has no default (R7): `none` is a configuration that does not supply it. -/
  astCat : Option Byte
  msm : MsmCfg
  deriving DecidableEq, Repr

end Sys2Proof

/-- FREE VALUE: what `BUF[a]` holds at reset (10_state.md R31; 93 U3, *any value* fixed at reset). Log entry 5. -/
opaque Sys2Proof.Config.initByte : Nat → BitVec 8

/-- FREE VALUE: the MSM result file that the n-th failed `MSMDEC` leaves (10_state.md R32; 93 U2). Log entry 8. -/
opaque Sys2Proof.Config.freeMsmFile : Nat → Sys2Proof.MsmFile

/-- FREE VALUE: `SIGFREQ(sys, sigid, fcn)` in Hz (43_msm.md R203, R230), which no source holds; used by host formulas
only. Log entry 9. -/
opaque Sys2Proof.Config.sigFreq : Sys2Proof.GnssSys → Nat → Option Int → Rat

/-- FREE VALUE: `LOCKMAP(x, code)` (43_msm.md R203, R228), which no source holds; used by host formulas only.
Log entry 9. -/
opaque Sys2Proof.Config.lockMap : Sys2Proof.Variant → Nat → Rat
end

