-- ==== Sys2Proof/Machine/Instance.lean ====
section
/-! DEFINITION. The default parameter values, the configuration State.reset takes, the protocol ids, and what makes
a configuration well-formed (spec 00_scope.md R7, R8; 42_framer.md R152, R153, R170, R175; 43_msm.md R203). -/

namespace Sys2Proof.Machine

/-- The defaults of 43_msm.md R203. -/
def msmStandard : MsmCfg where
  wMulti := 1
  wIods := 3
  wSession := 7
  wClk := 2
  wExtclk := 2
  wSmooth := 1
  wSmint := 3
  wExt := 4
  wRr := 14
  wFrr := 15
  rrAbsent := -8192
  frrAbsent := -16384
  eFprC := 24
  eFprX := 29
  eFcpC := 29
  eFcpX := 31
  cnrMulC := 16
  cnrMulX := 1
  rrMul := 10000
  prnOff := { gps := 0, glo := 0, gal := 0, sbs := 119, qzs := 192, bds := 0 }
  bdsOffMs := 14000
  fcnBias := 7
  fcnUnknown := 15
  cLight := 299792458

/-- The default masks of 41_checksum.md R125. -/
def hamStandard : HamMasks where
  m0 := 0xBB1F3480
  m1 := 0x5D8F9A40
  m2 := 0xAEC7CD00
  m3 := 0x5763E680
  m4 := 0x6BB1F340
  m5 := 0x8B7A89C0

/-- An instance of protocol `p` with `cap` bytes of buffer and every other parameter at its default of R7
("Instance X/n" of 95_test_vectors.md). `AST_CAT` has no default and is not supplied. -/
def instanceOf (p : Proto) (cap : BitVec 17) : Cfg where
  proto := p
  bufCap := cap
  midsyncBin := false
  midsyncUbx := false
  midsyncAst := false
  crc24Poly := 0x1864CFB
  crc24Init := 0
  crc32Poly := 0xEDB88320
  crc32Init := 0
  crc32Xorout := 0
  hamMask := hamStandard
  legPreamble := 0x66
  binSync0 := 0xAA
  binSync1 := 0x44
  binSync2 := 0x12
  binHlenOff := 3
  binPlenOff := 8
  binIdOff := 4
  binLknown := 10
  astCat := none
  msm := msmStandard

/-- The configuration of State.reset: RTCM3 with the capacity 1029 that R7 names. DESIGN CHOICE (log entry 2): the
spec fixes neither; every statement is over all configurations. -/
def resetCfg : Cfg := instanceOf .rtcm3 1029

/-- `BUF_CAP` as a number. -/
def bufCapacity (c : Cfg) : Nat := c.bufCap.toNat

/-- The protocols the generic machine serves (42_framer.md section 3). -/
inductive Generic where
  | rtcm3 | bin | ubx | asterix
  deriving DecidableEq, Repr

/-- Protocol ids (42_framer.md R152), 4 bits as `PID` (10_state.md R29). -/
def protoId : Proto → BitVec 4
  | .rtcm3   => 0
  | .bin     => 1
  | .ubx     => 2
  | .nmea    => 3
  | .legacy  => 4
  | .asterix => 5

/-- Which generic descriptor an instance has, none for the two irregular protocols. -/
def genericOf : Proto → Option Generic
  | .rtcm3   => some .rtcm3
  | .bin     => some .bin
  | .ubx     => some .ubx
  | .nmea    => none
  | .legacy  => none
  | .asterix => some .asterix

/-- Descriptor field `SYNC` (R162, R164, R166, R169). An ASTERIX instance without `AST_CAT` has none, and is
not well-formed. -/
def syncBytes (c : Cfg) : Generic → List Byte
  | .rtcm3   => [0xD3]
  | .bin     => [c.binSync0, c.binSync1, c.binSync2]
  | .ubx     => [0xB5, 0x62]
  | .asterix => c.astCat.toList

/-- Descriptor field `LKNOWN` of the generic machine (R162, R164, R166, R169). -/
def lKnown (c : Cfg) : Generic → Nat
  | .rtcm3   => 3
  | .bin     => c.binLknown
  | .ubx     => 6
  | .asterix => 3

/-- `LKNOWN(PROTO)` of the constraint on `BUF_CAP` (R7, R153, R170, R175). -/
def lKnownOf (c : Cfg) : Nat :=
  match c.proto with
  | .rtcm3   => lKnown c .rtcm3
  | .bin     => lKnown c .bin
  | .ubx     => lKnown c .ubx
  | .nmea    => 1
  | .legacy  => 6
  | .asterix => lKnown c .asterix

/-- The sync conditions on a generic descriptor: 1 to 3 bytes, `SYNC[0]` not in `SYNC[1..]` (R8), `LKNOWN > NS` (R153). -/
def syncWf (c : Cfg) (g : Generic) : Bool :=
  match syncBytes c g with
  | []        => false
  | b :: rest => !(rest.contains b) && decide (rest.length + 1 < lKnown c g)

/-- Well-formed configurations (R8, with the constraints of R7 and R153; 93 U4). -/
def cfgWf (c : Cfg) : Bool :=
  decide (lKnownOf c ≤ bufCapacity c) && decide (bufCapacity c ≤ 65536)
    && decide (c.binHlenOff < c.binLknown) && decide (c.binPlenOff + 1 < c.binLknown)
    && decide (c.binIdOff + 1 < c.binLknown)
    && match genericOf c.proto with
       | some g => syncWf c g
       | none   => true

end Sys2Proof.Machine
end

