-- ==== Sys2Proof/Machine/State.lean ====
section
/-! DEFINITION. The state of one block instance (spec 10_state.md R20 to R37), what stops it, and its reset.
Fields of the block's own first; the last two fields are the model's (log entries 4, 8). -/

namespace Sys2Proof.Machine

/-- The framer's state enum (R27); codes in Flags.lean. -/
inductive Phase where
  | sync | header | payload | check | tbody | tck | tend | ldata
  deriving DecidableEq, Repr

/-- Error kinds (60_exceptions.md R251); codes in Flags.lean, code 0 (none) is `Option.none`. -/
inductive ErrKind where
  | sync | size | checksum | unknown | decode | trailing | publication
  deriving DecidableEq, Repr

/-- The message id of a FRAME event: numeric, or the byte string of an NMEA sentence (R255). -/
inductive MsgId where
  | num (id : Word)
  | str (bytes : List Byte)
  deriving DecidableEq, Repr

/-- One record of the event output (R255 to R257). -/
inductive Event where
  | frame (proto : BitVec 4) (id : MsgId) (bytes : List Byte) (payoff paylen : Nat)
  | msg (proto : BitVec 4) (id : BitVec 12) (record : MsmFile)
  | err (kind : ErrKind) (proto : BitVec 4) (id : Option Word)
  deriving DecidableEq, Repr

/-- `BUF` as written bytes by index, indexes strictly rising (`Memory.wf`). An unlisted index holds no stored
value; reading it gives the free value of reset (Ops.lean, log entry 5). -/
abbrev Memory := List Host.Cell

/-- The state of an instance. -/
structure State where
  /-- `Cfg`, fixed when the instance is made (R7); `PID` and `BUFCAP` are read from it (R29). -/
  cfg : Cfg
  /-- `RES0`, `RES1` (R21). -/
  res0 : Word
  res1 : Word
  /-- The fields of `STATUS` (R24), `PHASE` below; the word is put together in Flags.lean. -/
  done   : Bool
  fvalid : Bool
  vok    : Bool
  mvalid : Bool
  ill    : Bool
  lastErr : Option ErrKind
  /-- `BITOFF` (R26). -/
  bitoff : Word
  /-- The framer registers (R27). -/
  phase : Phase
  cnt   : BitVec 17
  hlen  : BitVec 16
  plen  : BitVec 16
  star  : BitVec 16
  word  : Word
  nbit  : BitVec 5
  /-- The frame registers (R28). -/
  frLen    : BitVec 17
  frPayoff : BitVec 16
  frPaylen : BitVec 16
  frId     : Word
  frIdoff  : BitVec 16
  frIdlen  : BitVec 16
  /-- `BUF` (R30). -/
  buf : Memory
  /-- The MSM result file (R32, R33). -/
  msm : MsmFile
  /-- The event output, oldest first (R35, R254). -/
  events : List Event
  /-- The host's commands not yet taken, in issue order (R6, R61). The model's own field (log entry 4). -/
  port : List Packet
  /-- How many free result files have been taken. The model's own field (log entry 8). -/
  freeCtr : Nat
  deriving DecidableEq, Repr

/-- What stops the model. -/
inductive Fault where
  /-- Raised by `RDU`, `RDS`, `WRU`, `WRS` on a field not wholly inside `BUF` (20_memory.md R59, 93 U1 "*fault*").
  Safe: the model stops where the hardware does something the spec does not give. -/
  | bitFieldOutOfBounds
  deriving DecidableEq, Repr

/-- Why an instruction has no meaning in the model. -/
inductive Refusal where
  /-- Raised by an arm of exec that is not modelled yet: no arm is. Safe. A command the block refuses (R78) is
  not this: it is a next state with `ILL` set. -/
  | notModelled (mnemonic : String)
  deriving DecidableEq, Repr

/-- What a meaning answers. -/
abbrev Out := Host.Outcome State Fault Refusal

/-- Hardware reset of an instance with configuration `c` (R37; 70_reset_and_hazards.md R280). -/
def State.resetWith (c : Cfg) : State where
  cfg := c
  res0 := 0
  res1 := 0
  done := false
  fvalid := false
  vok := false
  mvalid := false
  ill := false
  lastErr := none
  bitoff := 0
  phase := .sync
  cnt := 0
  hlen := 0
  plen := 0
  star := 0
  word := 0
  nbit := 0
  frLen := 0
  frPayoff := 0
  frPaylen := 0
  frId := 0
  frIdoff := 0
  frIdlen := 0
  buf := []
  msm := MsmFile.zero
  events := []
  port := []
  freeCtr := 0

/-- The machine right after reset, on the configuration of log entry 2. -/
def State.reset : State := State.resetWith resetCfg

end Sys2Proof.Machine
end

