-- ==== Sys2Proof/Machine/Ops.lean ====
section
/-! DEFINITION. The named operations over `BUF` and the registers: byte and bit access, the three bit-field functions,
refusal, events, and what an error changes (spec 00_scope.md R10, R11; 10_state.md R30, R31; 40_bitfield.md R100 to
R104; 30_encoding.md R78; 60_exceptions.md R254, R260). -/

namespace Sys2Proof.Machine

/-! ### The buffer as bytes -/

/-- The stored byte at an index, none where nothing has been written since reset. -/
def Memory.find (m : Memory) (a : Nat) : Option Byte :=
  match m with
  | []          => none
  | (k, x) :: r => if k = a then some x else Memory.find r a

/-- `BUF[a]`. An index nothing has written since reset holds the free value of reset (R31; 93 U3, log entry 5). -/
def Memory.byteAt (m : Memory) (a : Nat) : Byte :=
  match Memory.find m a with
  | some x => x
  | none   => Sys2Proof.Config.initByte a

/-- `BUF[a] <- b`, keeping the indexes strictly rising. -/
def Memory.set (m : Memory) (a : Nat) (b : Byte) : Memory :=
  match m with
  | []          => [(a, b)]
  | (k, x) :: r => if a < k then (a, b) :: (k, x) :: r
                   else if a = k then (a, b) :: r
                   else (k, x) :: Memory.set r a b

/-- The canonical form: indexes strictly rising. An unlisted index stands for "never written", so no entry
can equal what an unlisted index is stored as. -/
abbrev Memory.wf (m : Memory) : Prop := m.Pairwise (fun x y => x.1 < y.1)

/-- `MemRead(addr, n)` (R11): bytes in ascending address order. -/
def memRead (m : Memory) (a n : Nat) : List Byte := (List.range n).map (fun i => Memory.byteAt m (a + i))

/-- `MemWrite(addr, n, v)` (R11). -/
def memWrite (m : Memory) (a : Nat) : List Byte → Memory
  | []      => m
  | b :: bs => memWrite (Memory.set m a b) (a + 1) bs

/-! ### The buffer as bits -/

/-- `bit(p) = BUF[p div 8][7 - (p mod 8)]` (R10). -/
def bitAt (m : Memory) (p : Nat) : Bool := (Memory.byteAt m (p / 8)).getLsbD (7 - p % 8)

/-- A byte with value bit `i` set to `v`. -/
def setByteBit (x : Byte) (i : Nat) (v : Bool) : Byte :=
  if v then x ||| (1#8 <<< i) else x &&& ~~~(1#8 <<< i)

/-- Buffer bit `p` set to `v`: the byte is read, merged and written back (R102). -/
def setBitAt (m : Memory) (p : Nat) (v : Bool) : Memory :=
  Memory.set m (p / 8) (setByteBit (Memory.byteAt m (p / 8)) (7 - p % 8) v)

/-- `getU(p, w)` (R100): first bit most significant. Defined for every width; wider than 32 it is the
mathematical field of R103's split law. -/
def getU (m : Memory) (p : Nat) : Nat → Nat
  | 0     => 0
  | w + 1 => 2 * getU m p w + (bitAt m (p + w)).toNat

/-- `getS(p, w)` (R101). -/
def getS (m : Memory) (p w : Nat) : Int :=
  if bitAt m p then (getU m p w : Int) - 2 ^ w else (getU m p w : Int)

/-- `putU(p, w, v)` (R102): the low `w` bits of `v`, least significant at `p + w - 1`. -/
def putU (m : Memory) (p : Nat) : Nat → Nat → Memory
  | 0, _     => m
  | w + 1, v => setBitAt (putU m p w (v / 2)) (p + w) (v % 2 = 1)

/-! ### Counting bits -/

/-- The positions of the 1 bits, counted from the most significant bit, ascending (43_msm.md R208, R218). -/
def setPositions {n : Nat} (v : BitVec n) : List Nat := (List.range n).filter (fun k => v.getMsbD k)

/-- `popcount(v)` (R9). -/
def popcount {n : Nat} (v : BitVec n) : Nat := (setPositions v).length

/-! ### Registers, refusal, events -/

/-- `REG <- v` of `RES0`. -/
def setRes0 (v : Word) (s : State) : State := { s with res0 := v }

/-- `BITOFF <- (BITOFF + w) mod 2^32` (40_bitfield.md R104). -/
def advance (w : Nat) (s : State) : State := { s with bitoff := s.bitoff + BitVec.ofNat 32 w }

/-- *Refuse* (30_encoding.md R78, 60_exceptions.md R262): `STATUS.ILL <- 1`, nothing else changes. -/
def refuse (s : State) : Out := .next { s with ill := true }

/-- Append one record to the event output (60_exceptions.md R254). -/
def emit (e : Event) (s : State) : State := { s with events := s.events ++ [e] }

/-- `PID` of the instance (10_state.md R29). -/
def pidOf (s : State) : BitVec 4 := protoId s.cfg.proto

/-- *Taking an error*, the block's "trap entry" (60_exceptions.md R253, R260): the ERR event and `STATUS.LASTERR`.
The recovery that goes with it is the framer's or `MSMDEC`'s own. -/
def raiseErr (k : ErrKind) (id : Option Word) (s : State) : State :=
  { emit (.err k (pidOf s) id) s with lastErr := some k }

/-- The framer's recovery (R156, R158, R260): `PHASE <- SYNC`, `CNT <- 0`. -/
def toSync (s : State) : State := { s with phase := .sync, cnt := 0 }

end Sys2Proof.Machine
end

