-- ==== Sys2Proof/Machine/Flags.lean ====
section
/-! DEFINITION. `STATUS` and the other registers as `GETR` numbers them, the flag updates, the response
(spec 10_state.md R24, R27, R29; 60_exceptions.md R251; 44_system.md R242; 30_encoding.md R72). -/

namespace Sys2Proof.Machine

/-- `PHASE` codes (R27). -/
def phaseCode : Phase → BitVec 4
  | .sync    => 0
  | .header  => 1
  | .payload => 2
  | .check   => 3
  | .tbody   => 4
  | .tck     => 5
  | .tend    => 6
  | .ldata   => 7

/-- Error-kind codes (R251). -/
def errCode : ErrKind → BitVec 4
  | .sync        => 1
  | .size        => 2
  | .checksum    => 3
  | .unknown     => 4
  | .decode      => 5
  | .trailing    => 6
  | .publication => 7

/-- `STATUS.LASTERR`: 0 for none (R24, R251). -/
def lastErrCode : Option ErrKind → BitVec 4
  | none   => 0
  | some k => errCode k

/-- `STATUS` as a word (R24); bits 7:5 and 31:16 read 0. -/
def statusWord (s : State) : Word :=
  (0 : BitVec 16) ++ phaseCode s.phase ++ lastErrCode s.lastErr ++ (0 : BitVec 3)
    ++ BitVec.ofBool s.ill ++ BitVec.ofBool s.mvalid ++ BitVec.ofBool s.vok
    ++ BitVec.ofBool s.fvalid ++ BitVec.ofBool s.done

/-- The register that `GETR` numbers (R242), zero-extended; none for a reserved number. -/
def regValue (s : State) (reg : BitVec 8) : Option Word :=
  match reg with
  | 0x00#8 => some (statusWord s)
  | 0x01#8 => some s.bitoff
  | 0x02#8 => some (s.cnt.setWidth 32)
  | 0x03#8 => some (s.hlen.setWidth 32)
  | 0x04#8 => some (s.plen.setWidth 32)
  | 0x05#8 => some (s.star.setWidth 32)
  | 0x06#8 => some s.word
  | 0x07#8 => some (s.nbit.setWidth 32)
  | 0x08#8 => some (s.frLen.setWidth 32)
  | 0x09#8 => some (s.frPayoff.setWidth 32)
  | 0x0A#8 => some (s.frPaylen.setWidth 32)
  | 0x0B#8 => some s.frId
  | 0x0C#8 => some (s.frIdoff.setWidth 32)
  | 0x0D#8 => some (s.frIdlen.setWidth 32)
  | 0x0E#8 => some ((pidOf s).setWidth 32)
  | 0x0F#8 => some (s.cfg.bufCap.setWidth 32)
  | _      => none

/-- What the block presents when a command has finished (R72). -/
structure Response where
  res0   : Word
  res1   : Word
  status : Word
  deriving DecidableEq, Repr

def response (s : State) : Response := ⟨s.res0, s.res1, statusWord s⟩

/-- `STATUS.FVALID <- 0`: the buffer no longer holds the frame as validated (R24, R107, R112). -/
def clearFvalid (s : State) : State := { s with fvalid := false }

/-- What `PUSH` and `RESET` begin with (42_framer.md R150, R151). -/
def clearPushFlags (s : State) : State := { s with done := false, fvalid := false, lastErr := none }

/-- A verify result: `RES0 <- ok ? 1 : 0`, `STATUS.VOK <- ok` (41_checksum.md R131). -/
def setVerify (ok : Bool) (s : State) : State := { s with res0 := if ok then 1 else 0, vok := ok }

end Sys2Proof.Machine
end

