-- ==== Sys2Proof/Machine/Ranges.lean ====
section
/-! DEFINITION. The operand ranges that need no state (spec 30_encoding.md R73, R79; 43_msm.md R231). -/

namespace Sys2Proof.Machine

/-- A field width: `1 .. 32` (R73, R79). -/
def widthInRange (w : BitVec 8) : Bool := decide (1 ≤ w.toNat) && decide (w.toNat ≤ 32)

/-- A register number of `GETR`: `0x00 .. 0x0F` (R73, R242). -/
def regInRange (reg : BitVec 8) : Bool := decide (reg.toNat ≤ 0x0F)

/-- The `W` field of `MSMDEC`: `sys` in `0 .. 5`, `W[3:1] = 0` (R73, R79). -/
def msmModeInRange (sys : BitVec 4) (zero : BitVec 3) : Bool := decide (sys.toNat ≤ 5) && decide (zero = 0)

/-- Header selectors of `MSMRD` (R231). -/
def selIsHeader (sel : BitVec 8) : Bool := decide (sel.toNat ≤ 0x13)

/-- Satellite selectors of `MSMRD` (R231). -/
def selIsSat (sel : BitVec 8) : Bool := decide (0x20 ≤ sel.toNat) && decide (sel.toNat ≤ 0x27)

/-- Cell selectors of `MSMRD` (R231): `0x40 .. 0x4C` and `0x4F`. -/
def selIsCell (sel : BitVec 8) : Bool :=
  (decide (0x40 ≤ sel.toNat) && decide (sel.toNat ≤ 0x4C)) || decide (sel.toNat = 0x4F)

/-- The listed selectors (R231). -/
def selInRange (sel : BitVec 8) : Bool := selIsHeader sel || selIsSat sel || selIsCell sel

end Sys2Proof.Machine
end

