-- ==== Sys2Proof/Machine/Operands.lean ====
section
/-! DEFINITION. The operand forms that need the state (spec 30_encoding.md R73, R79; 20_memory.md R59). -/

namespace Sys2Proof.Machine

/-- A byte index of `BUFRD`, `BUFWR`: `A < BUF_CAP`. -/
def indexInBuf (s : State) (idx : BitVec 16) : Bool := decide (idx.toNat < bufCapacity s.cfg)

/-- A span of the checksum commands or a region of `MSMDEC`: `start + len <= BUF_CAP`, without wrap. -/
def spanInBuf (s : State) (start len : Nat) : Bool := decide (start + len ≤ bufCapacity s.cfg)

/-- The field `[BITOFF, BITOFF + w)` is wholly inside the buffer (R59, 93 U1), without wrap. -/
def fieldInBuf (s : State) (w : Nat) : Bool := decide (s.bitoff.toNat + w ≤ 8 * bufCapacity s.cfg)

/-- The bytes of a checksum span. -/
def spanBytes (s : State) (start : BitVec 16) (len : Word) : List Byte := memRead s.buf start.toNat len.toNat

/-- The shared form of the four bit-field commands (40_bitfield.md R104 to R108): width refused outside `1 .. 32`,
fault outside the buffer (93 U1), else the command's effect and then the cursor. -/
def bitAccess (w : BitVec 8) (effect : Nat → Nat → State → State) (s : State) : Out :=
  if widthInRange w then
    if fieldInBuf s w.toNat then .next (advance w.toNat (effect s.bitoff.toNat w.toNat s))
    else .fault .bitFieldOutOfBounds
  else refuse s

/-- The shared form of the span commands (41_checksum.md R126, R131): refused outside the buffer, else the
effect on the span's bytes. -/
def onSpan (start : BitVec 16) (len : Word) (effect : List Byte → State → State) (s : State) : Out :=
  if spanInBuf s start.toNat len.toNat then .next (effect (spanBytes s start len) s) else refuse s

end Sys2Proof.Machine
end

