-- ==== Sys2Proof/Machine/BitField.lean ====
section
/-! DEFINITION. The bit-field unit: `RDU`, `RDS`, `WRU`, `WRS`, `SEEK`, `TELL`, `BUFRD`, `BUFWR`
(spec 40_bitfield.md R105 to R112). -/

namespace Sys2Proof.Machine

/-- R105: `RES0 <- zext_32(getU(BITOFF, w))`. -/
def readUnsigned (p w : Nat) (s : State) : State := setRes0 (BitVec.ofNat 32 (getU s.buf p w)) s

/-- R106: `RES0 <- sext_32(getS(BITOFF, w))`. -/
def readSigned (p w : Nat) (s : State) : State := setRes0 (BitVec.ofInt 32 (getS s.buf p w)) s

/-- R107, R108: `putU(BITOFF, w, ARG0[w-1:0])`, `FVALID <- 0`. -/
def writeField (v : Word) (p w : Nat) (s : State) : State :=
  clearFvalid { s with buf := putU s.buf p w (v.toNat % 2 ^ w) }

/-- `RDU w` (R105). -/
def execRdu (w : BitVec 8) (s : State) : Out := bitAccess w readUnsigned s

/-- `RDS w` (R106). -/
def execRds (w : BitVec 8) (s : State) : Out := bitAccess w readSigned s

/-- `WRU w, v` (R107). -/
def execWru (w : BitVec 8) (v : Word) (s : State) : Out := bitAccess w (writeField v) s

/-- `WRS w, v` (R108): the low `w` bits of the two's-complement pattern. -/
def execWrs (w : BitVec 8) (v : Word) (s : State) : Out := bitAccess w (writeField v) s

/-- `SEEK pos` (R109). -/
def execSeek (pos : Word) (s : State) : Out := .next { s with bitoff := pos }

/-- `TELL` (R110). -/
def execTell (s : State) : Out := .next (setRes0 s.bitoff s)

/-- `BUFRD idx` (R111). -/
def execBufrd (idx : BitVec 16) (s : State) : Out :=
  if indexInBuf s idx then .next (setRes0 ((Memory.byteAt s.buf idx.toNat).setWidth 32) s) else refuse s

/-- `BUFWR idx, b` (R112). -/
def execBufwr (idx : BitVec 16) (b : Byte) (s : State) : Out :=
  if indexInBuf s idx then .next (clearFvalid { s with buf := Memory.set s.buf idx.toNat b }) else refuse s

end Sys2Proof.Machine
end

