-- ==== Sys2Proof/Machine/ChecksumAlg.lean ====
section
/-! DEFINITION. The five checksum functions (spec 41_checksum.md R120 to R125, R140), pure functions of their input. -/

namespace Sys2Proof.Machine

/-- One bit step of R121: shift left in 25 bits, reduce when bit 24 is set. -/
def crc24Bit (poly crc : BitVec 25) : BitVec 25 :=
  let c := crc <<< 1
  if c.getLsbD 24 then c ^^^ poly else c

/-- One byte of R121: enters most significant bit first. -/
def crc24Byte (poly crc : BitVec 25) (b : Byte) : BitVec 25 :=
  Nat.repeat (crc24Bit poly) 8 (crc ^^^ (b.setWidth 25 <<< 16))

/-- `crc24q(bytes)` (R121). -/
def crc24q (c : Cfg) (bytes : List Byte) : BitVec 24 :=
  (bytes.foldl (crc24Byte c.crc24Poly) (c.crc24Init.setWidth 25)).setWidth 24

/-- One bit step of R122: shift right, reduce when the bit shifted out is 1. -/
def crc32Bit (poly crc : Word) : Word :=
  if crc.getLsbD 0 then (crc >>> 1) ^^^ poly else crc >>> 1

/-- One byte of R122: enters least significant bit first. -/
def crc32Byte (poly crc : Word) (b : Byte) : Word :=
  Nat.repeat (crc32Bit poly) 8 (crc ^^^ b.setWidth 32)

/-- `crc32r(bytes)` (R122). -/
def crc32r (c : Cfg) (bytes : List Byte) : Word :=
  bytes.foldl (crc32Byte c.crc32Poly) c.crc32Init ^^^ c.crc32Xorout

/-- One byte of R123: the sum, then the sum of sums, each modulo 256. -/
def fletcherStep (ab : Byte × Byte) (x : Byte) : Byte × Byte := (ab.1 + x, ab.2 + (ab.1 + x))

/-- `fletcher(bytes)` (R123): `a` is the high byte. -/
def fletcher (bytes : List Byte) : BitVec 16 :=
  let ab := bytes.foldl fletcherStep (0, 0)
  ab.1 ++ ab.2

/-- `xor8(bytes)` (R124). -/
def xor8 (bytes : List Byte) : Byte := bytes.foldl (· ^^^ ·) 0

/-- `HEXD(n)` (R124): the n-th character of 0..9 A..F. -/
def hexd (n : BitVec 4) : Byte := if n.toNat < 10 then 0x30 + n.setWidth 8 else 0x37 + n.setWidth 8

/-- The two rendered characters of a byte, first in the high byte (R124, R129). -/
def hexPair (x : Byte) : BitVec 16 := hexd (x.extractLsb' 4 4) ++ hexd (x.extractLsb' 0 4)

/-- `xorhex(bytes)` (R124). -/
def xorhex (bytes : List Byte) : BitVec 16 := hexPair (xor8 bytes)

/-- `norm(x)` (R125): the 24 data bits inverted when bit 30, the last bit of the word before, is 1. -/
def hamNorm (x : Word) : Word := if x.getLsbD 30 then x ^^^ 0x3FFFFFC0 else x

/-- One parity bit `p_i` (R125). -/
def hamBit (mask y : Word) : BitVec 1 := BitVec.ofNat 1 (popcount (y &&& mask))

/-- `hampar(x)` (R125): `p_0` in bit 5.
DESIGN CHOICE (log entry 25): R7 and R8 do not exclude a mask with a bit below 6. For such a mask R125's popcount is
followed as it stands, so the parity depends on `x[5:0]`, which R130 calls ignored because no default mask has such a bit. -/
def hampar (c : Cfg) (x : Word) : BitVec 6 :=
  let y := hamNorm x
  hamBit c.hamMask.m0 y ++ hamBit c.hamMask.m1 y ++ hamBit c.hamMask.m2 y
    ++ hamBit c.hamMask.m3 y ++ hamBit c.hamMask.m4 y ++ hamBit c.hamMask.m5 y

/-- `hamok(x)` (R125). -/
def hamok (c : Cfg) (x : Word) : Bool := hampar c x == (hamNorm x).extractLsb' 0 6

/-- `hamdata(x)` (R125): 24 bits, three payload bytes. -/
def hamdata (x : Word) : BitVec 24 := (hamNorm x).extractLsb' 6 24

/-- The three bytes of a decoded word, first-received first (R136, R178). -/
def hamBytes (x : Word) : List Byte :=
  [(hamdata x).extractLsb' 16 8, (hamdata x).extractLsb' 8 8, (hamdata x).extractLsb' 0 8]

/-- The 30 bits a host sends for source data `d` after a word whose last two bits were `q` (R140). -/
def hamSend (c : Cfg) (q : BitVec 2) (d : BitVec 24) : BitVec 30 :=
  let t := if q.getLsbD 0 then d ^^^ 0xFFFFFF else d
  t ++ hampar c (q ++ t ++ (0 : BitVec 6))

end Sys2Proof.Machine
end

