-- ==== Sys2Proof/Machine/Checksum.lean ====
section
/-! DEFINITION. The checksum unit's commands (spec 41_checksum.md R126 to R136). -/

namespace Sys2Proof.Machine

/-- `CKC.CRC24Q start, len` (R126). -/
def execCkcCrc24q (start : BitVec 16) (len : Word) (s : State) : Out :=
  onSpan start len (fun bs t => setRes0 ((crc24q t.cfg bs).setWidth 32) t) s

/-- `CKC.CRC32 start, len` (R127). -/
def execCkcCrc32 (start : BitVec 16) (len : Word) (s : State) : Out :=
  onSpan start len (fun bs t => setRes0 (crc32r t.cfg bs) t) s

/-- `CKC.FLET start, len` (R128). -/
def execCkcFlet (start : BitVec 16) (len : Word) (s : State) : Out :=
  onSpan start len (fun bs t => setRes0 ((fletcher bs).setWidth 32) t) s

/-- R129: the sum in `RES0`, its two rendered characters in `RES1`. -/
def setXorResults (bs : List Byte) (t : State) : State :=
  { t with res0 := (xor8 bs).setWidth 32, res1 := (xorhex bs).setWidth 32 }

/-- `CKC.XOR start, len` (R129). -/
def execCkcXor (start : BitVec 16) (len : Word) (s : State) : Out := onSpan start len setXorResults s

/-- `CKC.HAM word` (R130). -/
def execCkcHam (word : Word) (s : State) : Out := .next (setRes0 ((hampar s.cfg word).setWidth 32) s)

/-- `CKV.CRC24Q start, len, expected` (R131). -/
def execCkvCrc24q (start : BitVec 16) (len : Word) (expected : BitVec 24) (s : State) : Out :=
  onSpan start len (fun bs t => setVerify (crc24q t.cfg bs == expected) t) s

/-- `CKV.CRC32 start, len, expected` (R132). -/
def execCkvCrc32 (start : BitVec 16) (len : Word) (expected : BitVec 32) (s : State) : Out :=
  onSpan start len (fun bs t => setVerify (crc32r t.cfg bs == expected) t) s

/-- `CKV.FLET start, len, expected` (R133). -/
def execCkvFlet (start : BitVec 16) (len : Word) (expected : BitVec 16) (s : State) : Out :=
  onSpan start len (fun bs t => setVerify (fletcher bs == expected) t) s

/-- `CKV.XOR start, len, expected` (R134): the rendered characters are compared. -/
def execCkvXor (start : BitVec 16) (len : Word) (expected : BitVec 16) (s : State) : Out :=
  onSpan start len (fun bs t => setVerify (xorhex bs == expected) t) s

/-- `CKV.HAM word, expected` (R135). -/
def execCkvHam (word : Word) (expected : BitVec 6) (s : State) : Out :=
  .next (setVerify (hampar s.cfg word == expected) s)

/-- `HAMDEC word` (R136). -/
def execHamdec (word : Word) (s : State) : Out :=
  if hamok s.cfg word then .next { s with res0 := (hamdata word).setWidth 32, vok := true }
  else .next { s with res0 := 0, vok := false }

end Sys2Proof.Machine
end

