-- ==== Sys2Proof/Machine/Descriptor.lean ====
section
/-! DEFINITION. The descriptors of the generic machine, field by field (spec 42_framer.md R153, R162 to R169;
00_scope.md R7 for `MIDSYNC`). `SYNC` and `LKNOWN` are in Instance.lean, where R8 needs them. -/

namespace Sys2Proof.Machine

/-- The protocol of a descriptor. -/
def protoOf : Generic → Proto
  | .rtcm3   => .rtcm3
  | .bin     => .bin
  | .ubx     => .ubx
  | .asterix => .asterix

/-- A byte of the buffer as a number. -/
def byteNat (m : Memory) (a : Nat) : Nat := (Memory.byteAt m a).toNat

/-- `HLENF` (R162, R164, R166, R169). -/
def headerLen (c : Cfg) (m : Memory) : Generic → Nat
  | .rtcm3   => 3
  | .bin     => byteNat m c.binHlenOff
  | .ubx     => 6
  | .asterix => 3

/-- `PLENF`; negative only for an ASTERIX total below 3 (R153, R169). -/
def payloadLen (c : Cfg) (m : Memory) : Generic → Int
  | .rtcm3   => ((byteNat m 1 % 4) * 256 + byteNat m 2 : Nat)
  | .bin     => (byteNat m c.binPlenOff + byteNat m (c.binPlenOff + 1) * 256 : Nat)
  | .ubx     => (byteNat m 4 + byteNat m 5 * 256 : Nat)
  | .asterix => (byteNat m 1 * 256 + byteNat m 2 : Nat) - 3

/-- `CKB` (R162, R164, R166, R169). -/
def ckBytes : Generic → Nat
  | .rtcm3   => 3
  | .bin     => 4
  | .ubx     => 2
  | .asterix => 0

/-- `CKSTART`. -/
def ckStart : Generic → Nat
  | .rtcm3   => 0
  | .bin     => 0
  | .ubx     => 2
  | .asterix => 0

/-- `CKALG` as a number; not used for ASTERIX, which has none. -/
def ckCompute (c : Cfg) (bytes : List Byte) : Generic → Nat
  | .rtcm3   => (crc24q c bytes).toNat
  | .bin     => (crc32r c bytes).toNat
  | .ubx     => (fletcher bytes).toNat
  | .asterix => 0

/-- `CKRX`: the transmitted checksum from the bytes at `e` (R162, R164, R166). -/
def ckReceived (m : Memory) (e : Nat) : Generic → Nat
  | .rtcm3   => byteNat m e * 65536 + byteNat m (e + 1) * 256 + byteNat m (e + 2)
  | .bin     => byteNat m e + byteNat m (e + 1) * 256 + byteNat m (e + 2) * 65536 + byteNat m (e + 3) * 16777216
  | .ubx     => byteNat m e * 256 + byteNat m (e + 1)
  | .asterix => 0

/-- `IDF` (R162, R164, R166, R169). -/
def frameId (c : Cfg) (m : Memory) : Generic → Nat
  | .rtcm3   => byteNat m 3 * 16 + byteNat m 4 / 16
  | .bin     => byteNat m c.binIdOff + byteNat m (c.binIdOff + 1) * 256
  | .ubx     => byteNat m 2 * 256 + byteNat m 3
  | .asterix => byteNat m 0

/-- `MIDSYNC` of a generic instance (R7, R159; 90_conflicts.md C1). -/
def midSync (c : Cfg) : Generic → Bool
  | .rtcm3   => false
  | .bin     => c.midsyncBin
  | .ubx     => c.midsyncUbx
  | .asterix => c.midsyncAst

/-- `MIDSYNC` of the text machine (R7, R170). -/
def textMidSync : Bool := true

end Sys2Proof.Machine
end

