-- ==== Sys2Proof/Machine/Framer.lean ====
section
/-! DEFINITION. The framer: `PUSH` and `RESET` (spec 42_framer.md R150, R151), the generic machine (R154 to R159), the
text machine (R171 to R174), the legacy machine (R176 to R180). -/

namespace Sys2Proof.Machine

/-- `RESET` (R151, R181): the framer only. -/
def execReset (s : State) : Out :=
  .next (clearPushFlags
    { s with phase := .sync, cnt := 0, hlen := 0, plen := 0, star := 0, word := 0, nbit := 0 })

/-! ### The generic machine -/

/-- Rule R159: the partial frame is discarded, no event. -/
def resyncMid (g : Generic) (b : Byte) (s : State) : State :=
  if s.phase ≠ .sync ∧ midSync s.cfg g = true ∧ (syncBytes s.cfg g)[0]? = some b then toSync s else s

/-- One byte taken at `BUF[CNT]` (R155). -/
def takeByte (b : Byte) (s : State) : State :=
  { s with buf := Memory.set s.buf s.cnt.toNat b, cnt := s.cnt + 1 }

/-- The match of R154 on the bytes of `SYNC`. -/
def syncMatch (sy : List Byte) (b : Byte) (s : State) : State :=
  if sy[s.cnt.toNat]? = some b then takeByte b s
  else if sy[0]? = some b then { s with buf := Memory.set s.buf 0 b, cnt := 1 }
  else { s with cnt := 0 }

/-- Rule R154: `PHASE <- HEADER` when the whole of `SYNC` is matched. -/
def syncSearch (g : Generic) (b : Byte) (s : State) : State :=
  let t := syncMatch (syncBytes s.cfg g) b s
  if t.cnt.toNat = (syncBytes s.cfg g).length then { t with phase := .header } else t

/-- The check of R158 on the frame in the buffer. -/
def frameChecks (g : Generic) (s : State) : Bool :=
  let e := s.hlen.toNat + s.plen.toNat
  ckBytes g = 0 || ckCompute s.cfg (memRead s.buf (ckStart g) (e - ckStart g)) g == ckReceived s.buf e g

/-- A frame that passed: the frame registers, `FVALID`, `DONE`, the FRAME event (R158). -/
def acceptFrame (g : Generic) (s : State) : State :=
  let id := BitVec.ofNat 32 (frameId s.cfg s.buf g)
  emit (.frame (protoId (protoOf g)) (.num id) (memRead s.buf 0 s.cnt.toNat) s.hlen.toNat s.plen.toNat)
    { s with
      frLen := s.cnt, frPayoff := s.hlen, frPaylen := s.plen, frId := id, frIdoff := 0, frIdlen := 0
      fvalid := true, done := true }

/-- Rule R158. -/
def completeFrame (g : Generic) (s : State) : State :=
  toSync (if frameChecks g s then acceptFrame g s else raiseErr .checksum none s)

/-- Rule R157, for `CNT >= LKNOWN`. -/
def phaseStep (g : Generic) (s : State) : State :=
  if s.cnt.toNat < s.hlen.toNat then { s with phase := .header }
  else if s.cnt.toNat < s.hlen.toNat + s.plen.toNat then { s with phase := .payload }
  else if s.cnt.toNat < s.hlen.toNat + s.plen.toNat + ckBytes g then { s with phase := .check }
  else completeFrame g s

/-- Rule R156, when `CNT` has just become `LKNOWN`; rule R157 follows where it does not return. -/
def lengthStep (g : Generic) (s : State) : State :=
  let hl := headerLen s.cfg s.buf g
  let pl := payloadLen s.cfg s.buf g
  if hl < lKnown s.cfg g ∨ pl < 0 then toSync s
  else if bufCapacity s.cfg < hl + pl.toNat + ckBytes g then toSync (raiseErr .size none s)
  else phaseStep g { s with hlen := BitVec.ofNat 16 hl, plen := BitVec.ofNat 16 pl.toNat }

/-- Rules R155 to R158 for a byte outside `SYNC`. -/
def frameByte (g : Generic) (b : Byte) (s : State) : State :=
  let t := takeByte b s
  if t.cnt.toNat < lKnown s.cfg g then t
  else if t.cnt.toNat = lKnown s.cfg g then lengthStep g t
  else phaseStep g t

/-- The generic step (section 3): rules R159, R154, R155, R156, R157, R158 in that order. -/
def genericStep (g : Generic) (b : Byte) (s : State) : State :=
  let t := resyncMid g b s
  if t.phase = .sync then syncSearch g b t else frameByte g b t

/-! ### The text machine (NMEA) -/

/-- `'$'` or `'!'` (R171). -/
def isMarker (b : Byte) : Bool := b == 0x24 || b == 0x21

/-- Back to `SYNC` with `STAR` cleared (R172 to R174). -/
def textToSync (s : State) : State := { s with phase := .sync, cnt := 0, star := 0 }

/-- The bytes strictly between marker and `*` (R174). -/
def textBody (s : State) : List Byte := memRead s.buf 1 (s.star.toNat - 1)

/-- The two received characters against the rendered ones, exactly (R174). -/
def textChecks (s : State) : Bool :=
  xorhex (textBody s) == Memory.byteAt s.buf (s.star.toNat + 1) ++ Memory.byteAt s.buf (s.star.toNat + 2)

/-- Length of the string id: up to the first comma, else the whole body (R174). -/
def textIdLen (s : State) : Nat := (textBody s).findIdx (· == 0x2C)

/-- A sentence that passed (R174). -/
def acceptText (s : State) : State :=
  emit (.frame (protoId .nmea) (.str (memRead s.buf 1 (textIdLen s))) (memRead s.buf 0 s.cnt.toNat)
      1 (s.star.toNat - 1))
    { s with
      frLen := s.cnt, frPayoff := 1, frPaylen := s.star - 1, frId := 0, frIdoff := 1
      frIdlen := BitVec.ofNat 16 (textIdLen s), fvalid := true, done := true }

/-- Rule R174. -/
def completeText (s : State) : State :=
  textToSync (if textChecks s then acceptText s else raiseErr .checksum none s)

/-- `TEND` of R173: CR, then LF. -/
def textEnd (b : Byte) (s : State) : State :=
  if s.cnt.toNat = s.star.toNat + 4 then
    if b = 0x0D then s else textToSync s
  else
    if b = 0x0A then completeText s else textToSync s

/-- Rule R173, after the byte is stored. -/
def textPhase (b : Byte) (s : State) : State :=
  match s.phase with
  | .tbody   => if b = 0x2A then { s with star := s.cnt.setWidth 16 - 1, phase := .tck } else s
  | .tck     => if s.cnt.toNat = s.star.toNat + 3 then { s with phase := .tend } else s
  | .tend    => textEnd b s
  | .sync    => s
  | .header  => s
  | .payload => s
  | .check   => s
  | .ldata   => s

/-- Rules R172 and R173. -/
def textByte (b : Byte) (s : State) : State :=
  if bufCapacity s.cfg ≤ s.cnt.toNat then textToSync (raiseErr .size none s) else textPhase b (takeByte b s)

/-- The text step (R170): rules R171 to R174. -/
def textStep (b : Byte) (s : State) : State :=
  if isMarker b = true ∧ (s.phase = .sync ∨ textMidSync = true) then
    { s with buf := Memory.set s.buf 0 b, cnt := 1, star := 0, phase := .tbody }
  else if s.phase = .sync then s
  else textByte b s

/-! ### The legacy machine -/

/-- `PHASE <- SYNC ; CNT <- 0 ; WORD <- WORD and 3` (R179, R180). -/
def legacyToSync (s : State) : State := { s with phase := .sync, cnt := 0, word := s.word &&& 3 }

/-- The message id of a legacy frame or error: the 6-bit type in the first word (R179, R180). -/
def legacyId (s : State) : Word := BitVec.ofNat 32 (byteNat s.buf 1 / 4)

/-- The preamble test of R178, on the word as it arrives, inverted when bit 30 is set. -/
def legacyPreamble (c : Cfg) (w : Word) : Bool :=
  let pre : Byte := w.extractLsb' 22 8
  (if w.getLsbD 30 then pre ^^^ 0xFF else pre) == c.legPreamble

/-- Rule R178. -/
def legacySearch (s : State) : State :=
  if legacyPreamble s.cfg s.word = true ∧ hamok s.cfg s.word = true then
    { s with buf := memWrite s.buf 0 (hamBytes s.word), cnt := 3, nbit := 0, phase := .ldata }
  else s

/-- A legacy frame that is complete (R180). -/
def acceptLegacy (s : State) : State :=
  legacyToSync (emit (.frame (protoId .legacy) (.num (legacyId s)) (memRead s.buf 0 s.cnt.toNat) 6 s.plen.toNat)
    { s with
      frLen := s.cnt, frPayoff := 6, frPaylen := s.plen, frId := legacyId s, frIdoff := 0, frIdlen := 0
      fvalid := true, done := true })

/-- The completion test of R180. -/
def legacyComplete (s : State) : State :=
  if s.cnt.toNat < s.hlen.toNat + s.plen.toNat then s else acceptLegacy s

/-- Rule R180, after a word is stored. -/
def legacyLength (s : State) : State :=
  if s.cnt.toNat = 6 then
    let pl := byteNat s.buf 5 / 8 * 3
    let t := { s with hlen := 6, plen := BitVec.ofNat 16 pl }
    if bufCapacity s.cfg < 6 + pl then legacyToSync (raiseErr .size (some (legacyId t)) t) else legacyComplete t
  else legacyComplete s

/-- A word of 30 bits has been received (R179). -/
def legacyWord (s : State) : State :=
  if hamok s.cfg s.word then
    legacyLength { s with buf := memWrite s.buf s.cnt.toNat (hamBytes s.word), cnt := s.cnt + 3 }
  else legacyToSync (raiseErr .checksum (some (legacyId s)) s)

/-- Rule R179. -/
def legacyCollect (s : State) : State :=
  if s.nbit.toNat + 1 < 30 then { s with nbit := s.nbit + 1 } else legacyWord { s with nbit := 0 }

/-- One bit of R177, then rule R178 or R179. -/
def legacyBit (s : State) (b : Bool) : State :=
  let t := { s with word := (s.word <<< 1) + (BitVec.ofBool b).setWidth 32 }
  if t.phase = .sync then legacySearch t else legacyCollect t

/-- The six low bits, least significant first (R177). -/
def lowBits (b : Byte) : List Bool := (List.range 6).map (fun i => b.getLsbD i)

/-- The legacy step: rule R176, then R177. -/
def legacyStep (b : Byte) (s : State) : State :=
  if b.extractLsb' 6 2 = 0b01#2 then (lowBits b).foldl legacyBit s else s

/-! ### `PUSH` -/

/-- The step of the instance's protocol (R150). -/
def framerStep (b : Byte) (s : State) : State :=
  match s.cfg.proto with
  | .rtcm3   => genericStep .rtcm3 b s
  | .bin     => genericStep .bin b s
  | .ubx     => genericStep .ubx b s
  | .asterix => genericStep .asterix b s
  | .nmea    => textStep b s
  | .legacy  => legacyStep b s

/-- `RES0 <- zext_32(STATUS.DONE)` (R150). -/
def reportDone (s : State) : State := setRes0 ((BitVec.ofBool s.done).setWidth 32) s

/-- `PUSH b` (R150); refused on a configuration that is not well-formed (30_encoding.md R79). -/
def execPush (b : Byte) (s : State) : Out :=
  if cfgWf s.cfg then .next (reportDone (framerStep b (clearPushFlags s))) else refuse s

end Sys2Proof.Machine
end

