-- ==== Sys2Proof/Machine/MsmLayout.lean ====
section
/-! DEFINITION. The layout of an MSM record: field widths and positions, scale factors and sentinels by variant
(spec 43_msm.md R203, R205, R212). Widths D0 gives are written here; the OPEN ones come from the configuration. -/

namespace Sys2Proof.Machine

/-! ### Header positions (R205), from the start of the payload -/

/-- Position of the multiple-message flag: 12 + 12 + 30 bits precede it. -/
def qMulti : Nat := 54
def qIods (c : MsmCfg) : Nat := qMulti + c.wMulti
def qSession (c : MsmCfg) : Nat := qIods c + c.wIods
def qClk (c : MsmCfg) : Nat := qSession c + c.wSession
def qExtclk (c : MsmCfg) : Nat := qClk c + c.wClk
def qSmooth (c : MsmCfg) : Nat := qExtclk c + c.wExtclk
def qSmint (c : MsmCfg) : Nat := qSmooth c + c.wSmooth
def qSatmask (c : MsmCfg) : Nat := qSmint c + c.wSmint
def qSigmask (c : MsmCfg) : Nat := qSatmask c + 64

/-- `HDRBITS`, the sum of the header widths (R203); 169 for the default constants. -/
def hdrBits (c : MsmCfg) : Nat := qSigmask c + 32

/-! ### Body widths (R203, R212) -/

def wExt (c : MsmCfg) : Variant → Nat
  | .compact  => 0
  | .extended => c.wExt

def wRr (c : MsmCfg) : Variant → Nat
  | .compact  => 0
  | .extended => c.wRr

def wFpr : Variant → Nat
  | .compact  => 15
  | .extended => 20

def wFcp : Variant → Nat
  | .compact  => 22
  | .extended => 24

def wLock : Variant → Nat
  | .compact  => 4
  | .extended => 10

def wCnr : Variant → Nat
  | .compact  => 6
  | .extended => 10

def wFrr (c : MsmCfg) : Variant → Nat
  | .compact  => 0
  | .extended => c.wFrr

/-- `SATBITS(x)`. -/
def satBits (c : MsmCfg) (x : Variant) : Nat := 8 + wExt c x + 10 + wRr c x

/-- `CELLBITS(x)`. -/
def cellBits (c : MsmCfg) (x : Variant) : Nat := wFpr x + wFcp x + wLock x + 1 + wCnr x + wFrr c x

/-- `need` (R200 step 6, R212). DESIGN CHOICE (log entry 24): with `NSIG = 0` and `NSAT > 0` the satellite blocks are
counted, as R200, R212 and R219's second sentence say; R219's first sentence gives 169 there. -/
def recordBits (c : MsmCfg) (x : Variant) (nsat nsig ncell : Nat) : Nat :=
  hdrBits c + nsat * nsig + nsat * satBits c x + ncell * cellBits c x

/-! ### Scale factors, offsets, codes (R203) -/

def eFpr (c : MsmCfg) : Variant → Nat
  | .compact  => c.eFprC.val
  | .extended => c.eFprX.val

def eFcp (c : MsmCfg) : Variant → Nat
  | .compact  => c.eFcpC.val
  | .extended => c.eFcpX.val

def cnrMul (c : MsmCfg) : Variant → Nat
  | .compact  => c.cnrMulC
  | .extended => c.cnrMulX

def prnOff (o : PrnOffsets) : GnssSys → BitVec 16
  | .gps => o.gps
  | .glo => o.glo
  | .gal => o.gal
  | .sbs => o.sbs
  | .qzs => o.qzs
  | .bds => o.bds

/-- The `sys` codes (30_encoding.md R76). -/
def gnssCode : GnssSys → BitVec 4
  | .gps => 0
  | .glo => 1
  | .gal => 2
  | .sbs => 3
  | .qzs => 4
  | .bds => 5

/-- The system a `sys` operand names; none for 6 to 15 (R73). -/
def gnssOf (sys : BitVec 4) : Option GnssSys :=
  match sys with
  | 0#4 => some .gps
  | 1#4 => some .glo
  | 2#4 => some .gal
  | 3#4 => some .sbs
  | 4#4 => some .qzs
  | 5#4 => some .bds
  | _   => none

def variantCode : Variant → BitVec 1
  | .compact  => 0
  | .extended => 1

/-- The variant bit `W[0]` (R76). -/
def variantOf (x : BitVec 1) : Variant := if x = 1 then .extended else .compact

/-- `ceil8(n)` (00_scope.md R9). -/
def ceil8 (n : Nat) : Nat := (n + 7) / 8

end Sys2Proof.Machine
end

