-- ==== Sys2Proof/Machine/MsmDecode.lean ====
section
/-! DEFINITION. Reading and reconstructing an MSM record from the buffer (spec 43_msm.md R200 to R230), as functions of
the buffer `m`, the payload start `P` and the operands. `MSMDEC` itself is in Msm.lean. -/

namespace Sys2Proof.Machine

/-- The field at payload bit `q` of width `w`, unsigned (R204). -/
def fieldU (m : Memory) (p q w : Nat) : Nat := getU m (8 * p + q) w

/-- The same, signed (R204). -/
def fieldS (m : Memory) (p q w : Nat) : Int := getS m (8 * p + q) w

/-- `MH_SATMASK`: two 32-bit reads, high first (R205). -/
def satMaskAt (c : MsmCfg) (m : Memory) (p : Nat) : BitVec 64 :=
  BitVec.ofNat 64 (fieldU m p (qSatmask c) 32 * 2 ^ 32 + fieldU m p (qSatmask c + 32) 32)

/-- `MH_SIGMASK` (R205). -/
def sigMaskAt (c : MsmCfg) (m : Memory) (p : Nat) : BitVec 32 := BitVec.ofNat 32 (fieldU m p (qSigmask c) 32)

/-- `SATID[]`: ascending 1-based positions, position 1 the first transmitted bit (R208). -/
def satIds (c : MsmCfg) (m : Memory) (p : Nat) : List Nat := (setPositions (satMaskAt c m p)).map (· + 1)

/-- `SIGID[]` (R208). -/
def sigIds (c : MsmCfg) (m : Memory) (p : Nat) : List Nat := (setPositions (sigMaskAt c m p)).map (· + 1)

/-- `NSAT` (R208). -/
def nSat (c : MsmCfg) (m : Memory) (p : Nat) : Nat := popcount (satMaskAt c m p)

/-- `NSIG` (R208). -/
def nSig (c : MsmCfg) (m : Memory) (p : Nat) : Nat := popcount (sigMaskAt c m p)

/-- `MH_CELLMASK`: `NSAT*NSIG` bits left-aligned in 64 (R210). -/
def cellMaskAt (c : MsmCfg) (m : Memory) (p : Nat) : BitVec 64 :=
  let n := nSat c m p * nSig c m p
  BitVec.ofNat 64 (fieldU m p (hdrBits c) n * 2 ^ (64 - n))

/-- `NCELL` (R210). -/
def nCell (c : MsmCfg) (m : Memory) (p : Nat) : Nat := popcount (cellMaskAt c m p)

/-- `need` of the record at `P` (R200 step 6). -/
def needBits (c : MsmCfg) (m : Memory) (x : Variant) (p : Nat) : Nat :=
  recordBits c x (nSat c m p) (nSig c m p) (nCell c m p)

/-- The first failing step of R200, in its order (R223); none when the record decodes. Steps 1, 4, 6 come before
the reads they guard, step 3 before step 4 (R209). -/
def msmDefect (c : MsmCfg) (m : Memory) (x : Variant) (p l : Nat) : Option ErrKind :=
  if 8 * l < hdrBits c then some .trailing
  else if 64 < nSat c m p * nSig c m p then some .decode
  else if 8 * l < hdrBits c + nSat c m p * nSig c m p then some .trailing
  else if 8 * l < needBits c m x p then some .trailing
  else if ceil8 (needBits c m x p) ≠ l then some .trailing
  else none

/-- `MH_DOW` (R206). -/
def msmDow (m : Memory) (sys : GnssSys) (p : Nat) : Nat :=
  match sys with
  | .glo => fieldU m p 24 3
  | .gps => 0
  | .gal => 0
  | .sbs => 0
  | .qzs => 0
  | .bds => 0

/-- `MH_EPOCH` (R206). -/
def msmEpoch (c : MsmCfg) (m : Memory) (sys : GnssSys) (p : Nat) : Nat :=
  match sys with
  | .glo => fieldU m p 27 27
  | .bds => fieldU m p 24 30 + c.bdsOffMs
  | .gps => fieldU m p 24 30
  | .gal => fieldU m p 24 30
  | .sbs => fieldU m p 24 30
  | .qzs => fieldU m p 24 30

/-- The header part of the file (R205, R208, R210, R200 step 10). -/
def msmHeaderOf (c : MsmCfg) (m : Memory) (sys : GnssSys) (x : Variant) (p : Nat) : MsmHeader where
  sys      := sys
  var      := x
  msgnum   := BitVec.ofNat 12 (fieldU m p 0 12)
  station  := BitVec.ofNat 12 (fieldU m p 12 12)
  dow      := BitVec.ofNat 3 (msmDow m sys p)
  epoch    := BitVec.ofNat 31 (msmEpoch c m sys p)
  multi    := BitVec.ofNat 1 (fieldU m p qMulti c.wMulti)
  iods     := BitVec.ofNat 3 (fieldU m p (qIods c) c.wIods)
  session  := BitVec.ofNat 7 (fieldU m p (qSession c) c.wSession)
  clksteer := BitVec.ofNat 2 (fieldU m p (qClk c) c.wClk)
  extclk   := BitVec.ofNat 2 (fieldU m p (qExtclk c) c.wExtclk)
  smooth   := BitVec.ofNat 1 (fieldU m p (qSmooth c) c.wSmooth)
  smint    := BitVec.ofNat 3 (fieldU m p (qSmint c) c.wSmint)
  satmask  := satMaskAt c m p
  sigmask  := sigMaskAt c m p
  cellmask := cellMaskAt c m p
  nsat     := BitVec.ofNat 7 (nSat c m p)
  nsig     := BitVec.ofNat 6 (nSig c m p)
  ncell    := BitVec.ofNat 7 (nCell c m p)
  bits     := BitVec.ofNat 16 (needBits c m x p)

/-! ### Body (R212): field-major, no padding -/

/-- Where the body starts: after the cell mask. -/
def qBody (c : MsmCfg) (m : Memory) (p : Nat) : Nat := hdrBits c + nSat c m p * nSig c m p
def qExt (c : MsmCfg) (m : Memory) (p : Nat) : Nat := qBody c m p + nSat c m p * 8
def qFrac (c : MsmCfg) (m : Memory) (x : Variant) (p : Nat) : Nat := qExt c m p + nSat c m p * wExt c x
def qRr (c : MsmCfg) (m : Memory) (x : Variant) (p : Nat) : Nat := qFrac c m x p + nSat c m p * 10
def qFpr (c : MsmCfg) (m : Memory) (x : Variant) (p : Nat) : Nat := qRr c m x p + nSat c m p * wRr c x
def qFcp (c : MsmCfg) (m : Memory) (x : Variant) (p : Nat) : Nat := qFpr c m x p + nCell c m p * wFpr x
def qLock (c : MsmCfg) (m : Memory) (x : Variant) (p : Nat) : Nat := qFcp c m x p + nCell c m p * wFcp x
def qHalf (c : MsmCfg) (m : Memory) (x : Variant) (p : Nat) : Nat := qLock c m x p + nCell c m p * wLock x
def qCnr (c : MsmCfg) (m : Memory) (x : Variant) (p : Nat) : Nat := qHalf c m x p + nCell c m p * 1
def qFrr (c : MsmCfg) (m : Memory) (x : Variant) (p : Nat) : Nat := qCnr c m x p + nCell c m p * wCnr x

/-- `S_ROUGHQ` (R214): the sentinel is tested on the integer field, before any arithmetic. -/
def roughRange (int : BitVec 8) (frac : BitVec 10) : BitVec 18 :=
  if int = 255 then 0 else BitVec.ofNat 18 (int.toNat * 1024 + frac.toNat)

/-- `S_RR` (R215): 0 in the compact variant. -/
def roughRate (c : MsmCfg) (m : Memory) (x : Variant) (p i : Nat) : BitVec 14 :=
  match x with
  | .compact  => 0
  | .extended => BitVec.ofInt 14 (fieldS m p (qRr c m x p + i * wRr c x) (wRr c x))

/-- `S_RRV` (R215). -/
def roughRateValid (c : MsmCfg) (x : Variant) (rr : BitVec 14) : Bool :=
  match x with
  | .compact  => false
  | .extended => decide (rr.toInt ≠ c.rrAbsent)

/-- `SAT[i]` (R208, R214, R215, R229). -/
def satEntryAt (c : MsmCfg) (m : Memory) (sys : GnssSys) (x : Variant) (p i : Nat) : SatEntry :=
  let id := BitVec.ofNat 7 ((satIds c m p).getD i 0)
  let int := BitVec.ofNat 8 (fieldU m p (qBody c m p + i * 8) 8)
  let frac := BitVec.ofNat 10 (fieldU m p (qFrac c m x p + i * 10) 10)
  let rr := roughRate c m x p i
  { id := id
    prn := id.setWidth 16 + prnOff c.prnOff sys
    int := int
    frac := frac
    roughq := roughRange int frac
    ext := BitVec.ofNat 4 (fieldU m p (qExt c m p + i * wExt c x) (wExt c x))
    rr := rr
    rrv := roughRateValid c x rr }

/-- `SAT[0 .. NSAT)`. -/
def satEntries (c : MsmCfg) (m : Memory) (sys : GnssSys) (x : Variant) (p : Nat) : List SatEntry :=
  (List.range (nSat c m p)).map (satEntryAt c m sys x p)

/-- `absent(i)` (R214). -/
def satAbsent (e : SatEntry) : Bool := decide (e.roughq = 0)

/-- The most negative value of a field of width `w`, the sentinel of R217. -/
def mostNegative (w : Nat) : Int := -2 ^ (w - 1)

/-- `S_ROUGHQ * 2^21 + fine * 2^(31 - E)` (R224, R225), in units of `2^-31` ms. -/
def fullRange (e : SatEntry) (fine : Int) (unit : Nat) : Int :=
  (e.roughq.toNat : Int) * 2 ^ 21 + fine * 2 ^ (31 - unit)

/-- `C_FRR` (R216): 0 in the compact variant. -/
def fineRate (c : MsmCfg) (m : Memory) (x : Variant) (p k : Nat) : BitVec 15 :=
  match x with
  | .compact  => 0
  | .extended => BitVec.ofInt 15 (fieldS m p (qFrr c m x p + k * wFrr c x) (wFrr c x))

/-- `C_RRV` (R226). -/
def rateValid (c : MsmCfg) (x : Variant) (e : SatEntry) (frr : BitVec 15) : Bool :=
  match x with
  | .compact  => false
  | .extended => e.rrv && decide (frr.toInt ≠ c.frrAbsent)

/-- `CELL[k]` (R216, R218, R224 to R228), given its satellite's entry. -/
def cellEntryOf (c : MsmCfg) (m : Memory) (x : Variant) (p k i j : Nat) (e : SatEntry) : CellEntry :=
  let fpr := BitVec.ofInt 20 (fieldS m p (qFpr c m x p + k * wFpr x) (wFpr x))
  let fcp := BitVec.ofInt 24 (fieldS m p (qFcp c m x p + k * wFcp x) (wFcp x))
  let cnr := BitVec.ofNat 10 (fieldU m p (qCnr c m x p + k * wCnr x) (wCnr x))
  let frr := fineRate c m x p k
  let prv := !satAbsent e && decide (fpr.toInt ≠ mostNegative (wFpr x))
  let cpv := !satAbsent e && decide (fcp.toInt ≠ mostNegative (wFcp x))
  let rrv := rateValid c x e frr
  { sat := BitVec.ofNat 6 i
    sig := BitVec.ofNat 5 j
    sigid := BitVec.ofNat 6 ((sigIds c m p).getD j 0)
    fpr := fpr
    fcp := fcp
    lock := BitVec.ofNat 10 (fieldU m p (qLock c m x p + k * wLock x) (wLock x))
    half := BitVec.ofNat 1 (fieldU m p (qHalf c m x p + k * 1) 1)
    cnr := cnr
    frr := frr
    prv := prv
    prq := if prv then BitVec.ofInt 64 (fullRange e fpr.toInt (eFpr c x)) else 0
    cpv := cpv
    cpq := if cpv then BitVec.ofInt 64 (fullRange e fcp.toInt (eFcp c x)) else 0
    rrv := rrv
    rrq := if rrv then BitVec.ofInt 32 (e.rr.toInt * c.rrMul + frr.toInt) else 0
    cnrq := BitVec.ofNat 14 (cnr.toNat * cnrMul c x) }

/-- The mask index `m_k` of the `k`-th set bit of the cell mask (R218). -/
def cellIndex (c : MsmCfg) (m : Memory) (p k : Nat) : Nat := (setPositions (cellMaskAt c m p)).getD k 0

/-- `CELL[k]`: `C_SAT = m_k div NSIG`, `C_SIG = m_k mod NSIG` (R218). -/
def cellEntryAt (c : MsmCfg) (m : Memory) (sys : GnssSys) (x : Variant) (p k : Nat) : CellEntry :=
  let i := cellIndex c m p k / nSig c m p
  cellEntryOf c m x p k i (cellIndex c m p k % nSig c m p) (satEntryAt c m sys x p i)

/-- `CELL[0 .. NCELL)`, in cell-mask order. -/
def cellEntries (c : MsmCfg) (m : Memory) (sys : GnssSys) (x : Variant) (p : Nat) : List CellEntry :=
  (List.range (nCell c m p)).map (cellEntryAt c m sys x p)

/-- The whole file of a record that decodes (R200 steps 2 to 10). -/
def msmFileOf (c : MsmCfg) (m : Memory) (sys : GnssSys) (x : Variant) (p : Nat) : MsmFile where
  hdr   := msmHeaderOf c m sys x p
  sats  := satEntries c m sys x p
  cells := cellEntries c m sys x p

/-- The id of an `MSMDEC` error (R200 `fail`): the first 12 payload bits when there are two bytes. -/
def msmErrId (m : Memory) (p l : Nat) : Option Word :=
  if 2 ≤ l then some (BitVec.ofNat 32 (getU m (8 * p) 12)) else none

end Sys2Proof.Machine
end

