-- ==== Sys2Proof/Machine/Msm.lean ====
section
/-! DEFINITION. The MSM unpacker's commands `MSMDEC` and `MSMRD` (spec 43_msm.md R200, R231). -/

namespace Sys2Proof.Machine

/-- What every unrefused `MSMDEC` begins with (R200). -/
def msmBegin (s : State) : State := { s with mvalid := false, lastErr := none, res0 := 0 }

/-- The file after a failed decode is unspecified (R200, R260): a free value (93 U2, log entry 8). -/
def msmForget (s : State) : State :=
  { s with msm := Sys2Proof.Config.freeMsmFile s.freeCtr, freeCtr := s.freeCtr + 1 }

/-- `fail(kind)` (R200, R260). -/
def msmFail (k : ErrKind) (id : Option Word) (s : State) : State := msmForget (raiseErr k id (msmBegin s))

/-- Step 10 (R200). -/
def msmSucceed (f : MsmFile) (s : State) : State :=
  let t := msmBegin s
  emit (.msg (pidOf t) f.hdr.msgnum f) { t with msm := f, mvalid := true, res0 := 1 }

/-- An `MSMDEC` whose operands are in range (R200). -/
def msmRun (sys : GnssSys) (x : Variant) (p l : Nat) (s : State) : State :=
  match msmDefect s.cfg.msm s.buf x p l with
  | some k => msmFail k (msmErrId s.buf p l) s
  | none   => msmSucceed (msmFileOf s.cfg.msm s.buf sys x p) s

/-- `MSMDEC sys, P, L` (R200). -/
def execMsmdec (sys : BitVec 4) (zero : BitVec 3) (x : BitVec 1) (p l : Word) (s : State) : Out :=
  match gnssOf sys with
  | none   => refuse s
  | some g =>
    if zero = 0 ∧ spanInBuf s p.toNat l.toNat = true then .next (msmRun g (variantOf x) p.toNat l.toNat s)
    else refuse s

/-- One element of the result file as `MSMRD` delivers it (R231). -/
inductive MsmElem where
  | w32 (v : Word)
  | w64 (v : BitVec 64)
  deriving DecidableEq, Repr

/-- The header elements by selector (R231). -/
def msmHeaderElem (h : MsmHeader) (sel : BitVec 8) : Option MsmElem :=
  match sel with
  | 0x00#8 => some (.w32 (h.msgnum.setWidth 32))
  | 0x01#8 => some (.w32 (h.station.setWidth 32))
  | 0x02#8 => some (.w32 (h.epoch.setWidth 32))
  | 0x03#8 => some (.w32 (h.dow.setWidth 32))
  | 0x04#8 => some (.w32 (h.multi.setWidth 32))
  | 0x05#8 => some (.w32 (h.iods.setWidth 32))
  | 0x06#8 => some (.w32 (h.session.setWidth 32))
  | 0x07#8 => some (.w32 (h.clksteer.setWidth 32))
  | 0x08#8 => some (.w32 (h.extclk.setWidth 32))
  | 0x09#8 => some (.w32 (h.smooth.setWidth 32))
  | 0x0A#8 => some (.w32 (h.smint.setWidth 32))
  | 0x0B#8 => some (.w64 h.satmask)
  | 0x0C#8 => some (.w32 h.sigmask)
  | 0x0D#8 => some (.w64 h.cellmask)
  | 0x0E#8 => some (.w32 (h.nsat.setWidth 32))
  | 0x0F#8 => some (.w32 (h.nsig.setWidth 32))
  | 0x10#8 => some (.w32 (h.ncell.setWidth 32))
  | 0x11#8 => some (.w32 (h.bits.setWidth 32))
  | 0x12#8 => some (.w32 ((gnssCode h.sys).setWidth 32))
  | 0x13#8 => some (.w32 ((variantCode h.var).setWidth 32))
  | _      => none

/-- The satellite elements by selector (R231). -/
def msmSatElem (e : SatEntry) (sel : BitVec 8) : Option MsmElem :=
  match sel with
  | 0x20#8 => some (.w32 (e.id.setWidth 32))
  | 0x21#8 => some (.w32 (e.prn.setWidth 32))
  | 0x22#8 => some (.w32 (e.roughq.setWidth 32))
  | 0x23#8 => some (.w32 (e.ext.setWidth 32))
  | 0x24#8 => some (.w32 (e.rr.signExtend 32))
  | 0x25#8 => some (.w32 (e.int.setWidth 32))
  | 0x26#8 => some (.w32 (e.frac.setWidth 32))
  | 0x27#8 => some (.w32 ((BitVec.ofBool e.rrv).setWidth 32))
  | _      => none

/-- Selector `0x4F`: bit 0 `C_PRV`, bit 1 `C_CPV`, bit 2 `C_RRV`, bit 3 `C_HALF` (R231). -/
def cellFlags (e : CellEntry) : BitVec 4 := e.half ++ BitVec.ofBool e.rrv ++ BitVec.ofBool e.cpv ++ BitVec.ofBool e.prv

/-- The cell elements by selector (R231). -/
def msmCellElem (e : CellEntry) (sel : BitVec 8) : Option MsmElem :=
  match sel with
  | 0x40#8 => some (.w32 (e.sat.setWidth 32))
  | 0x41#8 => some (.w32 (e.sig.setWidth 32))
  | 0x42#8 => some (.w64 e.prq)
  | 0x43#8 => some (.w64 e.cpq)
  | 0x44#8 => some (.w32 e.rrq)
  | 0x45#8 => some (.w32 (e.lock.setWidth 32))
  | 0x46#8 => some (.w32 (e.cnrq.setWidth 32))
  | 0x47#8 => some (.w32 (e.fpr.signExtend 32))
  | 0x48#8 => some (.w32 (e.fcp.signExtend 32))
  | 0x49#8 => some (.w32 (e.frr.signExtend 32))
  | 0x4A#8 => some (.w32 (e.cnr.setWidth 32))
  | 0x4B#8 => some (.w32 (e.sigid.setWidth 32))
  | 0x4C#8 => some (.w32 (e.half.setWidth 32))
  | 0x4F#8 => some (.w32 ((cellFlags e).setWidth 32))
  | _      => none

/-- The element `sel`, `idx` of the file; none where R231 refuses. `idx` is ignored for a header selector. -/
def msmElem (f : MsmFile) (sel : BitVec 8) (idx : BitVec 16) : Option MsmElem :=
  if selIsSat sel then
    if idx.toNat < f.hdr.nsat.toNat then msmSatElem (f.sats.getD idx.toNat SatEntry.zero) sel else none
  else if selIsCell sel then
    if idx.toNat < f.hdr.ncell.toNat then msmCellElem (f.cells.getD idx.toNat CellEntry.zero) sel else none
  else msmHeaderElem f.hdr sel

/-- `RES0` the low word; `RES1` the high word of a 64-bit element only (R231). -/
def deliverElem (e : MsmElem) (s : State) : State :=
  match e with
  | .w32 v => { s with res0 := v }
  | .w64 v => { s with res0 := v.extractLsb' 0 32, res1 := v.extractLsb' 32 32 }

/-- `MSMRD sel, idx` (R231). -/
def execMsmrd (sel : BitVec 8) (idx : BitVec 16) (s : State) : Out :=
  if s.mvalid then
    match msmElem s.msm sel idx with
    | some e => .next (deliverElem e s)
    | none   => refuse s
  else refuse s

end Sys2Proof.Machine
end

