-- ==== Sys2Proof/Machine/System.lean ====
section
/-! DEFINITION. The system commands `NOP`, `STAT`, `GETR` (spec 44_system.md R240 to R242). -/

namespace Sys2Proof.Machine

/-- `NOP` (R240). -/
def execNop (s : State) : Out := .next s

/-- `STAT` (R241). -/
def execStat (s : State) : Out := .next (setRes0 (statusWord s) s)

/-- `GETR reg` (R242). -/
def execGetr (reg : BitVec 8) (s : State) : Out :=
  match regValue s reg with
  | some v => .next (setRes0 v s)
  | none   => refuse s

end Sys2Proof.Machine
end

