-- ==== Sys2Proof/Machine/Dispatch.lean ====
section
/-! DEFINITION. The dispatch: one arm per constructor of Instr, one direct call of its meaning. -/

namespace Sys2Proof.Machine

def exec (i : Instr) (s : State) : Host.Outcome State Fault Refusal :=
  match i with
  | .nop => Sys2Proof.Machine.execNop s
  | .stat => Sys2Proof.Machine.execStat s
  | .reset => Sys2Proof.Machine.execReset s
  | .getr reg => Sys2Proof.Machine.execGetr reg s
  | .rdu w => Sys2Proof.Machine.execRdu w s
  | .rds w => Sys2Proof.Machine.execRds w s
  | .wru w v => Sys2Proof.Machine.execWru w v s
  | .wrs w v => Sys2Proof.Machine.execWrs w v s
  | .seek pos => Sys2Proof.Machine.execSeek pos s
  | .tell => Sys2Proof.Machine.execTell s
  | .bufrd idx => Sys2Proof.Machine.execBufrd idx s
  | .bufwr idx b => Sys2Proof.Machine.execBufwr idx b s
  | .ckcCrc24q start len => Sys2Proof.Machine.execCkcCrc24q start len s
  | .ckcCrc32 start len => Sys2Proof.Machine.execCkcCrc32 start len s
  | .ckcFlet start len => Sys2Proof.Machine.execCkcFlet start len s
  | .ckcXor start len => Sys2Proof.Machine.execCkcXor start len s
  | .ckcHam word => Sys2Proof.Machine.execCkcHam word s
  | .ckvCrc24q start len expected => Sys2Proof.Machine.execCkvCrc24q start len expected s
  | .ckvCrc32 start len expected => Sys2Proof.Machine.execCkvCrc32 start len expected s
  | .ckvFlet start len expected => Sys2Proof.Machine.execCkvFlet start len expected s
  | .ckvXor start len expected => Sys2Proof.Machine.execCkvXor start len expected s
  | .ckvHam word expected => Sys2Proof.Machine.execCkvHam word expected s
  | .hamdec word => Sys2Proof.Machine.execHamdec word s
  | .push b => Sys2Proof.Machine.execPush b s
  | .msmdec sys zero x p l => Sys2Proof.Machine.execMsmdec sys zero x p l s
  | .msmrd sel idx => Sys2Proof.Machine.execMsmrd sel idx s

end Sys2Proof.Machine
end

