-- ==== Sys2Proof/Machine/Step.lean ====
section
/-! DEFINITION. One step: the block takes the next command the host has issued, decodes it and runs it to completion
(spec 00_scope.md R6; 20_memory.md R57, R61; 10_state.md R22: there is no program counter). -/

namespace Sys2Proof.Machine

/-- A packet runs: a command by its meaning, a reserved packet by the refusal of 30_encoding.md R78, R79. -/
def runPacket (p : Packet) (s : State) : Out :=
  match decode p with
  | .ok i    => exec i s
  | .error _ => refuse s

/-- One step. With no command issued the block does nothing (log entry 4). -/
def step (s : State) : Host.Outcome State Fault Refusal :=
  match s.port with
  | []     => .next s
  | p :: r => runPacket p { s with port := r }

/-- The host issues the packet numbered `w` as the next command: the very next step takes it (log entry 4). -/
def State.withFetchWord (s : State) (nbits w : Nat) : State := { s with port := packetOfNumber nbits w :: s.port }

end Sys2Proof.Machine
end

