-- ==== Sys2Proof/Machine/Pseudo.lean ====
section
/-! DEFINITION. The pseudo-instructions (spec 30_encoding.md R82 to R84): what a host computes from several commands and
their responses. They are not commands of the block: each runs the commands of its expansion through exec. -/

namespace Sys2Proof.Machine

/-- A host's run: the value it has in hand and the block's state, or the stop of the command that stopped. -/
abbrev HostRun (α : Type) := Host.Outcome (α × State) Fault Refusal

/-- Issue one command and take `RES0` from its response (R72). -/
def call (i : Instr) (s : State) : HostRun Word :=
  match exec i s with
  | .next t    => .next (t.res0, t)
  | .fault r   => .fault r
  | .refused r => .refused r

/-- Go on with what the last response gave. -/
def andThen {α β : Type} (r : HostRun α) (f : α → State → HostRun β) : HostRun β :=
  match r with
  | .next (a, s) => f a s
  | .fault e     => .fault e
  | .refused e   => .refused e

/-- The host computes without a command. -/
def give {α : Type} (a : α) (s : State) : HostRun α := .next (a, s)

/-- Two commands, the value made of both results. -/
def callTwo {α : Type} (i j : Instr) (f : Word → Word → α) (s : State) : HostRun α :=
  andThen (call i s) fun hi t => andThen (call j t) fun lo u => give (f hi lo) u

/-- The number of bits of the first part of a wide field, `h = w - 32` (R82). -/
def wideHigh (w : Nat) : BitVec 8 := BitVec.ofNat 8 (w - 32)

/-- `RDUW w` (R82): unsigned, `33 <= w <= 64`. -/
def rduw (w : Nat) : State → HostRun Nat :=
  callTwo (.rdu (wideHigh w)) (.rdu 32) (fun hi lo => hi.toNat * 2 ^ 32 + lo.toNat)

/-- `RDSW w` (R82): the first part carries the sign. -/
def rdsw (w : Nat) : State → HostRun Int :=
  callTwo (.rds (wideHigh w)) (.rdu 32) (fun hi lo => hi.toInt * 2 ^ 32 + (lo.toNat : Int))

/-- `WRUW w, v` (R82). -/
def wruw (w : Nat) (v : BitVec 64) : State → HostRun Unit :=
  callTwo (.wru (wideHigh w) (v.extractLsb' 32 32)) (.wru 32 (v.extractLsb' 0 32)) (fun _ _ => ())

/-- `WRSW w, v` (R82), `v` in two's complement. -/
def wrsw (w : Nat) (v : BitVec 64) : State → HostRun Unit :=
  callTwo (.wrs (wideHigh w) (v.extractLsb' 32 32)) (.wru 32 (v.extractLsb' 0 32)) (fun _ _ => ())

/-- `RDLE16 idx` (R83). DESIGN CHOICE (log entry 23): `idx + 1` is taken modulo 2^16, the width of `A`, so the byte
after index 0xFFFF is `BUF[0]`; R83 does not say. -/
def rdle16 (idx : BitVec 16) : State → HostRun Nat :=
  callTwo (.bufrd idx) (.bufrd (idx + 1)) (fun lo hi => hi.toNat * 256 + lo.toNat)

/-- `RDLE32 idx` (R83): lowest address least significant. The four indexes are taken modulo 2^16 (DESIGN CHOICE, log
entry 23). -/
def rdle32 (idx : BitVec 16) (s : State) : HostRun Nat :=
  andThen (rdle16 idx s) fun lo t => andThen (rdle16 (idx + 2) t) fun hi u => give (hi * 65536 + lo) u

/-- `SKIP n` (R84): `TELL`, then `SEEK RES0 + n`. -/
def skipBits (n : Word) (s : State) : HostRun Unit :=
  andThen (call .tell s) fun r t => andThen (call (.seek (r + n)) t) fun _ u => give () u

/-- `ALIGN8` (R84): `TELL`, then `SEEK 8 * ceil8(RES0)`. -/
def align8 (s : State) : HostRun Unit :=
  andThen (call .tell s) fun r t =>
    andThen (call (.seek (BitVec.ofNat 32 (8 * ceil8 r.toNat))) t) fun _ u => give () u

/-- `PUSHN b0, b1, ...` (R84): one `PUSH` a byte. -/
def pushn : List Byte → State → HostRun Unit
  | [], s      => give () s
  | b :: bs, s => andThen (call (.push b) s) fun _ t => pushn bs t

/-- `FRAMEID` (R84): `FR_ID`, or `FR_IDOFF` and `FR_IDLEN` on an NMEA instance. -/
def frameIdent (s : State) : HostRun (List Word) :=
  if s.cfg.proto = .nmea then callTwo (.getr 0x0C) (.getr 0x0D) (fun off len => [off, len]) s
  else andThen (call (.getr 0x0B) s) fun id t => give [id] t

/-- `PUSHD byte, sys, var` (R84): `PUSH`; when `STATUS.DONE` shows a frame, `MSMDEC` on its payload. -/
def pushd (b : Byte) (sys : BitVec 4) (x : BitVec 1) (s : State) : HostRun Unit :=
  andThen (call (.push b) s) fun _ t =>
    if (response t).status.getLsbD 0 then
      andThen (call (.getr 0x09) t) fun p u =>
        andThen (call (.getr 0x0A) u) fun l v =>
          andThen (call (.msmdec sys 0 x p l) v) fun _ w => give () w
    else give () t

end Sys2Proof.Machine
end

