-- ==== Sys2Proof/Safety.lean ====
section
/-! DEFINITION. What a safe run is: the invariants of a reachable state, by unit, in the terms the claims use
(spec 10_state.md R27, R28, R34; 20_memory.md R58; 42_framer.md R155, R156, R160; 60_exceptions.md R251). -/

namespace Sys2Proof.Machine

/-- The buffer is in canonical form and holds no index outside `0 .. BUF_CAP - 1` (R30, R58). -/
def BufInv (s : State) : Prop := Memory.wf s.buf ∧ ∀ e ∈ s.buf, e.1 < bufCapacity s.cfg

/-- A generic instance between two bytes (R154 to R158): in `SYNC` a proper part of the sync is matched; otherwise
the next store is inside the buffer, and once the lengths are known the whole frame fits and `PHASE` names the next byte. -/
def GenericInv (g : Generic) (s : State) : Prop :=
  if s.phase = .sync then s.cnt.toNat < (syncBytes s.cfg g).length
  else
    (syncBytes s.cfg g).length ≤ s.cnt.toNat ∧
    (s.cnt.toNat < lKnown s.cfg g → s.phase = .header) ∧
    (lKnown s.cfg g ≤ s.cnt.toNat →
      lKnown s.cfg g ≤ s.hlen.toNat ∧
      s.cnt.toNat < s.hlen.toNat + s.plen.toNat + ckBytes g ∧
      s.hlen.toNat + s.plen.toNat + ckBytes g ≤ bufCapacity s.cfg ∧
      s.phase = (if s.cnt.toNat < s.hlen.toNat then .header
                 else if s.cnt.toNat < s.hlen.toNat + s.plen.toNat then .payload else .check))

/-- An NMEA instance between two bytes (R170 to R174). -/
def TextInv (s : State) : Prop :=
  match s.phase with
  | .sync    => s.cnt = 0 ∧ s.star = 0
  | .tbody   => 1 ≤ s.cnt.toNat ∧ s.cnt.toNat ≤ bufCapacity s.cfg ∧ s.star = 0
  | .tck     => 1 ≤ s.star.toNat ∧ (s.cnt.toNat = s.star.toNat + 1 ∨ s.cnt.toNat = s.star.toNat + 2) ∧
                  s.cnt.toNat ≤ bufCapacity s.cfg
  | .tend    => 1 ≤ s.star.toNat ∧ (s.cnt.toNat = s.star.toNat + 3 ∨ s.cnt.toNat = s.star.toNat + 4) ∧
                  s.cnt.toNat ≤ bufCapacity s.cfg
  | .header  => False
  | .payload => False
  | .check   => False
  | .ldata   => False

/-- A legacy instance between two bits (R176 to R180). -/
def LegacyInv (s : State) : Prop :=
  match s.phase with
  | .sync    => s.cnt = 0
  | .ldata   => s.nbit.toNat < 30 ∧
                  (s.cnt.toNat = 3 ∨
                    (6 ≤ s.cnt.toNat ∧ s.cnt.toNat % 3 = 0 ∧ s.hlen = 6 ∧ s.plen.toNat % 3 = 0 ∧
                      s.cnt.toNat < 6 + s.plen.toNat ∧ 6 + s.plen.toNat ≤ bufCapacity s.cfg))
  | .header  => False
  | .payload => False
  | .check   => False
  | .tbody   => False
  | .tck     => False
  | .tend    => False

/-- The framer of the instance's protocol. -/
def FramerInv (s : State) : Prop :=
  match s.cfg.proto with
  | .rtcm3   => GenericInv .rtcm3 s
  | .bin     => GenericInv .bin s
  | .ubx     => GenericInv .ubx s
  | .asterix => GenericInv .asterix s
  | .nmea    => TextInv s
  | .legacy  => LegacyInv s

/-- While `FVALID = 1` the frame and its payload lie inside the buffer (R24, R28, R58). -/
def FrameInv (s : State) : Prop :=
  s.fvalid = true →
    s.frLen.toNat ≤ bufCapacity s.cfg ∧ s.frPayoff.toNat + s.frPaylen.toNat ≤ s.frLen.toNat

/-- The invariant of R34, and the parts of the file as long as their counts say. -/
def MsmInv (s : State) : Prop :=
  s.mvalid = true →
    s.msm.hdr.nsat.toNat * s.msm.hdr.nsig.toNat ≤ 64 ∧
    s.msm.hdr.ncell.toNat ≤ s.msm.hdr.nsat.toNat * s.msm.hdr.nsig.toNat ∧
    s.msm.sats.length = s.msm.hdr.nsat.toNat ∧ s.msm.cells.length = s.msm.hdr.ncell.toNat

/-- The kinds `STATUS.LASTERR` can hold (R251). -/
def reportedKind : Option ErrKind → Bool
  | none              => true
  | some .size        => true
  | some .checksum    => true
  | some .decode      => true
  | some .trailing    => true
  | some .sync        => false
  | some .unknown     => false
  | some .publication => false

/-- The invariant of a reachable state of a well-formed instance. -/
def StateInv (s : State) : Prop :=
  cfgWf s.cfg = true ∧ BufInv s ∧ FramerInv s ∧ FrameInv s ∧ MsmInv s ∧ reportedKind s.lastErr = true

/-- A run of `n` steps that neither faults nor is refused. -/
def SafeRun (n : Nat) (s : State) : Prop :=
  match n with
  | 0     => True
  | k + 1 => ∃ t, step s = .next t ∧ SafeRun k t

/-! ### Which commands may write what (R21, R23 to R28, R32, R252, R286), as sets of commands -/

/-- `PUSH`. -/
def isPush : Instr → Bool
  | .push _ => true
  | _       => false

/-- `MSMDEC`. -/
def isMsmdec : Instr → Bool
  | .msmdec _ _ _ _ _ => true
  | _                 => false

/-- The commands that write `BUF` (20_memory.md R56). -/
def writesBuf : Instr → Bool
  | .push _    => true
  | .bufwr _ _ => true
  | .wru _ _   => true
  | .wrs _ _   => true
  | _          => false

/-- The commands that move the cursor (R26). -/
def movesCursor : Instr → Bool
  | .seek _  => true
  | .rdu _   => true
  | .rds _   => true
  | .wru _ _ => true
  | .wrs _ _ => true
  | _        => false

/-- The commands that report in `VOK` (R24). -/
def verifies : Instr → Bool
  | .ckvCrc24q _ _ _ => true
  | .ckvCrc32 _ _ _  => true
  | .ckvFlet _ _ _   => true
  | .ckvXor _ _ _    => true
  | .ckvHam _ _      => true
  | .hamdec _        => true
  | _                => false

/-- The commands that leave no result in `RES0` (R21). -/
def leavesRes0 : Instr → Bool
  | .nop       => true
  | .reset     => true
  | .seek _    => true
  | .bufwr _ _ => true
  | .wru _ _   => true
  | .wrs _ _   => true
  | _          => false

/-- The commands that can write `RES1` (R21). -/
def writesRes1 : Instr → Bool
  | .ckcXor _ _ => true
  | .msmrd _ _  => true
  | _           => false

/-- What R150, R151 and R286 call reading: every command but `PUSH`, `RESET`, `BUFWR`, `WRU`, `WRS`. -/
def readsOnly (i : Instr) : Bool := !writesBuf i && decide (i ≠ .reset)

/-- The operands name a record that decodes: none refuses (R79) and no step of R200 fails. Its
`need` with `NSIG = 0 < NSAT` is log entry 24. -/
def MsmDecodes (s : State) (sys : BitVec 4) (z : BitVec 3) (x : BitVec 1) (p l : Word) (g : GnssSys) : Prop :=
  gnssOf sys = some g ∧ z = 0 ∧ p.toNat + l.toNat ≤ bufCapacity s.cfg ∧
    msmDefect s.cfg.msm s.buf (variantOf x) p.toNat l.toNat = none

end Sys2Proof.Machine
end

