-- ==== Sys2Proof/WellFormed.lean ====
section
/-! DEFINITION. Well-formed commands: the operand ranges of spec 30_encoding.md R73, R79 that hold of the command alone.
What depends on the state (the buffer's capacity, `MVALID`, the counts, the configuration) is tested when it runs. -/

namespace Sys2Proof

def Instr.wf : Instr → Bool
  | .getr reg            => Machine.regInRange reg
  | .rdu w               => Machine.widthInRange w
  | .rds w               => Machine.widthInRange w
  | .wru w _             => Machine.widthInRange w
  | .wrs w _             => Machine.widthInRange w
  | .msmdec sys zero _ _ _ => Machine.msmModeInRange sys zero
  | .msmrd sel _         => Machine.selInRange sel
  | .nop                 => true
  | .stat                => true
  | .reset               => true
  | .seek _              => true
  | .tell                => true
  | .bufrd _             => true
  | .bufwr _ _           => true
  | .ckcCrc24q _ _       => true
  | .ckcCrc32 _ _        => true
  | .ckcFlet _ _         => true
  | .ckcXor _ _          => true
  | .ckcHam _            => true
  | .ckvCrc24q _ _ _     => true
  | .ckvCrc32 _ _ _      => true
  | .ckvFlet _ _ _       => true
  | .ckvXor _ _ _        => true
  | .ckvHam _ _          => true
  | .hamdec _            => true
  | .push _              => true

end Sys2Proof
end

