-- ==== Sys2Proof/Certificates/Slice0/Obligations.lean ====
section
/-! DEFINITION. The statements for the provers, from the numbered rules of spec/, file by file. Every statement is over
every state, and so over every configuration of R7, unless a hypothesis says otherwise. -/

open Sys2Proof Sys2Proof.Machine

/-! ### Encoding and the step (30_encoding.md) -/

/-- R70 to R74: decoding an encoded command gives it back, with every operand at every value. -/
def Obligations.DecodeOfEncodeIsTheCommand : Prop := ∀ i : Instr, decode (encode i) = .ok i

/-- Packets written out from R70, R74 and the vectors E1 to E9, K, M8, P1 of 95_test_vectors.md. -/
def Obligations.WrittenOutPacketsDecode : Prop :=
  decode ⟨0x00FFFFFF, 0xFFFFFFFF, 0xFFFFFFFF⟩ = .ok .nop ∧
  decode ⟨0x030F0000, 0, 0⟩ = .ok (.getr 0x0F) ∧
  decode ⟨0x100C0000, 0, 0⟩ = .ok (.rdu 12) ∧
  decode ⟨0x13200000, 0x80000000, 0⟩ = .ok (.wrs 32 0x80000000) ∧
  decode ⟨0x17000010, 0x000001FF, 0⟩ = .ok (.bufwr 16 0xFF) ∧
  decode ⟨0x20030001, 0x00000039, 0⟩ = .ok (.ckcXor 1 57) ∧
  decode ⟨0x21000000, 0x00000022, 0x00ECBD40⟩ = .ok (.ckvCrc24q 0 34 0xECBD40) ∧
  decode ⟨0x22000000, 0x19BE84A4, 0⟩ = .ok (.hamdec 0x19BE84A4) ∧
  decode ⟨0x3000FFD3, 0, 0⟩ = .ok (.push 0xD3) ∧
  decode ⟨0x40510000, 0, 0x1E⟩ = .ok (.msmdec 5 0 1 0 30) ∧
  decode ⟨0x41420003, 0, 0⟩ = .ok (.msmrd 0x42 3) ∧
  decode ⟨0x04000000, 0, 0⟩ = .error (.reservedOpcode 0x04) ∧
  decode ⟨0x20050000, 0, 0⟩ = .error (.reservedAlgorithm 0x20 5)

/-- R74, R79 rows 1 and 4: exactly the packets with an unlisted `OP`, or `CKC`/`CKV` with `W > 4`, are reserved. -/
def Obligations.ReservedPacketsExactly : Prop :=
  ∀ p : Packet, (∃ e, decode p = .error e) ↔
    (p.op ∉ [0x00#8, 0x01#8, 0x02#8, 0x03#8, 0x10#8, 0x11#8, 0x12#8, 0x13#8, 0x14#8, 0x15#8, 0x16#8, 0x17#8,
        0x20#8, 0x21#8, 0x22#8, 0x30#8, 0x40#8, 0x41#8] ∨
      ((p.op = 0x20 ∨ p.op = 0x21) ∧ 4 < p.w.toNat))

/-- R77, with the parts of R71 and the low bits of R73: packets that agree on what their format reads run alike. -/
def Obligations.UnreadPacketPartsIgnored : Prop :=
  ∀ p q : Packet, p.op = q.op →
    ((p.op ∈ [0x00#8, 0x01#8, 0x02#8, 0x15#8]) ∨
     (p.op ∈ [0x03#8, 0x10#8, 0x11#8] ∧ p.w = q.w) ∨
     (p.op ∈ [0x12#8, 0x13#8] ∧ p.w = q.w ∧ p.arg0 = q.arg0) ∨
     (p.op = 0x14 ∧ p.arg0 = q.arg0) ∨
     (p.op = 0x16 ∧ p.a = q.a) ∨
     (p.op = 0x30 ∧ p.a.extractLsb' 0 8 = q.a.extractLsb' 0 8) ∨
     (p.op = 0x17 ∧ p.a = q.a ∧ p.arg0.extractLsb' 0 8 = q.arg0.extractLsb' 0 8) ∨
     (p.op = 0x20 ∧ p.w = q.w ∧ p.w.toNat < 4 ∧ p.a = q.a ∧ p.arg0 = q.arg0) ∨
     (p.op = 0x21 ∧ p.w = 0 ∧ q.w = 0 ∧ p.a = q.a ∧ p.arg0 = q.arg0 ∧
       p.arg1.extractLsb' 0 24 = q.arg1.extractLsb' 0 24) ∨
     (p.op = 0x21 ∧ p.w = 1 ∧ q.w = 1 ∧ p.a = q.a ∧ p.arg0 = q.arg0 ∧ p.arg1 = q.arg1) ∨
     (p.op = 0x21 ∧ (p.w = 2 ∨ p.w = 3) ∧ p.w = q.w ∧ p.a = q.a ∧ p.arg0 = q.arg0 ∧
       p.arg1.extractLsb' 0 16 = q.arg1.extractLsb' 0 16) ∨
     (p.op = 0x20 ∧ p.w = 4 ∧ q.w = 4 ∧ p.arg0 = q.arg0) ∨
     (p.op = 0x21 ∧ p.w = 4 ∧ q.w = 4 ∧ p.arg0 = q.arg0 ∧ p.arg1.extractLsb' 0 6 = q.arg1.extractLsb' 0 6) ∨
     (p.op = 0x22 ∧ p.arg0 = q.arg0) ∨
     (p.op = 0x40 ∧ p.w = q.w ∧ p.arg0 = q.arg0 ∧ p.arg1 = q.arg1) ∨
     (p.op = 0x41 ∧ p.w = q.w ∧ p.a = q.a)) →
    decode p = decode q ∧ ∀ s : State, runPacket p s = runPacket q s

/-- R6, R57, R61, R78: one step takes the first command the host has issued and runs it; a reserved packet is refused.
The queue of issued commands and the idle step are the model's (log entry 4). -/
def Obligations.StepTakesTheIssuedCommand : Prop :=
  (∀ s : State, s.port = [] → step s = .next s) ∧
  (∀ (s : State) (p : Packet) (r : List Packet) (i : Instr), s.port = p :: r → decode p = .ok i →
      step s = exec i { s with port := r }) ∧
  (∀ (s : State) (p : Packet) (r : List Packet) (e : DecodeError), s.port = p :: r → decode p = .error e →
      step s = .next { s with port := r, ill := true }) ∧
  (∀ (s : State) (n w : Nat) (i : Instr), decodeTableWord n w = some i →
      step (s.withFetchWord n w) = exec i s)

/-- R78, R79: a command whose own operands are out of range sets `ILL` and changes nothing else. -/
def Obligations.IllFormedOperandsAreRefused : Prop :=
  ∀ (i : Instr) (s : State), i.wf = false → exec i s = .next { s with ill := true }

/-- R59: byte indexes and spans outside the buffer are refused; a bit field outside it faults (93 U1). -/
def Obligations.AccessOutsideTheBuffer : Prop :=
  ∀ s : State,
    (∀ idx : BitVec 16, bufCapacity s.cfg ≤ idx.toNat →
      exec (.bufrd idx) s = .next { s with ill := true } ∧
      ∀ b, exec (.bufwr idx b) s = .next { s with ill := true }) ∧
    (∀ (a : BitVec 16) (l : Word), bufCapacity s.cfg < a.toNat + l.toNat →
      exec (.ckcCrc24q a l) s = .next { s with ill := true } ∧
      exec (.ckcCrc32 a l) s = .next { s with ill := true } ∧
      exec (.ckcFlet a l) s = .next { s with ill := true } ∧
      exec (.ckcXor a l) s = .next { s with ill := true } ∧
      (∀ e, exec (.ckvCrc24q a l e) s = .next { s with ill := true }) ∧
      (∀ e, exec (.ckvCrc32 a l e) s = .next { s with ill := true }) ∧
      (∀ e, exec (.ckvFlet a l e) s = .next { s with ill := true }) ∧
      (∀ e, exec (.ckvXor a l e) s = .next { s with ill := true })) ∧
    (∀ (sys : BitVec 4) (z : BitVec 3) (x : BitVec 1) (p l : Word), bufCapacity s.cfg < p.toNat + l.toNat →
      exec (.msmdec sys z x p l) s = .next { s with ill := true }) ∧
    (∀ w : BitVec 8, 1 ≤ w.toNat → w.toNat ≤ 32 → 8 * bufCapacity s.cfg < s.bitoff.toNat + w.toNat →
      exec (.rdu w) s = .fault .bitFieldOutOfBounds ∧
      exec (.rds w) s = .fault .bitFieldOutOfBounds ∧
      (∀ v, exec (.wru w v) s = .fault .bitFieldOutOfBounds) ∧
      (∀ v, exec (.wrs w v) s = .fault .bitFieldOutOfBounds))

/-- R79 last row: `PUSH` on a configuration that is not well-formed is refused; BUF_CAP below `LKNOWN` or above
65536 is one. What `cfgWf` holds beyond the conditions R8 lists (`LKNOWN > NS` of R153, a supplied `AST_CAT`, the `BIN`
offsets for every protocol) is the model's reading, log entry 14. -/
def Obligations.PushOnIllFormedConfigurationRefused : Prop :=
  (∀ (s : State) (b : Byte), cfgWf s.cfg = false → exec (.push b) s = .next { s with ill := true }) ∧
  (∀ c : Cfg, (bufCapacity c < lKnownOf c ∨ 65536 < bufCapacity c) → cfgWf c = false) ∧
  (∀ c : Cfg, c.proto = .bin → (c.binSync0 = c.binSync1 ∨ c.binSync0 = c.binSync2) → cfgWf c = false)

/-- R24, R78: `ILL` is sticky: no step clears it. -/
def Obligations.IllIsSticky : Prop :=
  ∀ s t : State, step s = .next t → s.ill = true → t.ill = true

/-! ### Bit fields (40_bitfield.md) -/

/-- R100, R10: a field is its bits, first bit most significant, and depends on its own bytes only. -/
def Obligations.FieldIsItsBits : Prop :=
  ∀ (m : Memory) (p w : Nat),
    getU m p w = ∑ i ∈ Finset.range w, (bitAt m (p + i)).toNat * 2 ^ (w - 1 - i) ∧
    getU m p w < 2 ^ w ∧
    (∀ q, bitAt m q = (Memory.byteAt m (q / 8)).getLsbD (7 - q % 8)) ∧
    (∀ m' : Memory, (∀ a, p / 8 ≤ a → 8 * a < p + w → Memory.byteAt m' a = Memory.byteAt m a) →
      getU m' p w = getU m p w)

/-- R101. -/
def Obligations.SignedFieldIsTwosComplement : Prop :=
  ∀ (m : Memory) (p w : Nat), 1 ≤ w →
    (bitAt m p = false → getS m p w = (getU m p w : Int)) ∧
    (bitAt m p = true → getS m p w = (getU m p w : Int) - 2 ^ w) ∧
    -2 ^ (w - 1) ≤ getS m p w ∧ getS m p w < 2 ^ (w - 1) ∧
    (getS m p 1 = 0 ∨ getS m p 1 = -1)

/-- R102: the field holds the value afterwards, and every other bit keeps its own. -/
def Obligations.WriteChangesOnlyItsField : Prop :=
  ∀ (m : Memory) (p w v : Nat), v < 2 ^ w →
    getU (putU m p w v) p w = v ∧
    (∀ i < w, bitAt (putU m p w v) (p + i) = v.testBit (w - 1 - i)) ∧
    (∀ q, q < p ∨ p + w ≤ q → bitAt (putU m p w v) q = bitAt m q)

/-- R103: the five laws. -/
def Obligations.BitFieldLaws : Prop :=
  ∀ (m : Memory) (p : Nat),
    (∀ w v, 1 ≤ w → v < 2 ^ w →
      getU (putU m p w v) p w = v ∧
      getS (putU m p w v) p w = (if v < 2 ^ (w - 1) then (v : Int) else (v : Int) - 2 ^ w)) ∧
    (∀ w v p' w', p' + w' ≤ p ∨ p + w ≤ p' → getU (putU m p w v) p' w' = getU m p' w') ∧
    (∀ a b, 1 ≤ a → 1 ≤ b →
      getU m p (a + b) = getU m p a * 2 ^ b + getU m (p + a) b ∧
      getS m p (a + b) = getS m p a * 2 ^ b + (getU m (p + a) b : Int)) ∧
    (∀ i, getU m (8 * i) 8 = (Memory.byteAt m i).toNat) ∧
    (∀ w, 1 ≤ w → getS m p w % 2 ^ w = (getU m p w : Int))

/-- R105: `RDU`. -/
def Obligations.RduReadsTheUnsignedField : Prop :=
  ∀ (s : State) (w : BitVec 8),
    (w.toNat = 0 ∨ 32 < w.toNat → exec (.rdu w) s = .next { s with ill := true }) ∧
    (1 ≤ w.toNat → w.toNat ≤ 32 → 8 * bufCapacity s.cfg < s.bitoff.toNat + w.toNat →
      exec (.rdu w) s = .fault .bitFieldOutOfBounds) ∧
    (1 ≤ w.toNat → w.toNat ≤ 32 → s.bitoff.toNat + w.toNat ≤ 8 * bufCapacity s.cfg →
      ∃ r b : Word, exec (.rdu w) s = .next { s with res0 := r, bitoff := b } ∧
        r.toNat = getU s.buf s.bitoff.toNat w.toNat ∧ b.toNat = s.bitoff.toNat + w.toNat)

/-- R106: `RDS`. -/
def Obligations.RdsReadsTheSignedField : Prop :=
  ∀ (s : State) (w : BitVec 8),
    (w.toNat = 0 ∨ 32 < w.toNat → exec (.rds w) s = .next { s with ill := true }) ∧
    (1 ≤ w.toNat → w.toNat ≤ 32 → 8 * bufCapacity s.cfg < s.bitoff.toNat + w.toNat →
      exec (.rds w) s = .fault .bitFieldOutOfBounds) ∧
    (1 ≤ w.toNat → w.toNat ≤ 32 → s.bitoff.toNat + w.toNat ≤ 8 * bufCapacity s.cfg →
      ∃ r b : Word, exec (.rds w) s = .next { s with res0 := r, bitoff := b } ∧
        r.toInt = getS s.buf s.bitoff.toNat w.toNat ∧ b.toNat = s.bitoff.toNat + w.toNat)

/-- R107: `WRU` keeps the low `w` bits; no other bit, and no byte outside the field's, changes. -/
def Obligations.WruWritesTheField : Prop :=
  ∀ (s : State) (w : BitVec 8) (v : Word),
    (w.toNat = 0 ∨ 32 < w.toNat → exec (.wru w v) s = .next { s with ill := true }) ∧
    (1 ≤ w.toNat → w.toNat ≤ 32 → 8 * bufCapacity s.cfg < s.bitoff.toNat + w.toNat →
      exec (.wru w v) s = .fault .bitFieldOutOfBounds) ∧
    (1 ≤ w.toNat → w.toNat ≤ 32 → s.bitoff.toNat + w.toNat ≤ 8 * bufCapacity s.cfg →
      ∃ (m : Memory) (b : Word), exec (.wru w v) s = .next { s with buf := m, bitoff := b, fvalid := false } ∧
        getU m s.bitoff.toNat w.toNat = v.toNat % 2 ^ w.toNat ∧
        (∀ q, q < s.bitoff.toNat ∨ s.bitoff.toNat + w.toNat ≤ q → bitAt m q = bitAt s.buf q) ∧
        (∀ a, a < s.bitoff.toNat / 8 ∨ s.bitoff.toNat + w.toNat ≤ 8 * a →
          Memory.byteAt m a = Memory.byteAt s.buf a) ∧
        b.toNat = s.bitoff.toNat + w.toNat)

/-- R108: `WRS` has the effect of `WRU` with the same fields, and a signed read gives the value back exactly when it is in range. -/
def Obligations.WrsWritesTheField : Prop :=
  ∀ (s : State) (w : BitVec 8) (v : Word),
    exec (.wrs w v) s = exec (.wru w v) s ∧
    (1 ≤ w.toNat → w.toNat ≤ 32 → s.bitoff.toNat + w.toNat ≤ 8 * bufCapacity s.cfg →
      ∃ (m : Memory) (b : Word), exec (.wrs w v) s = .next { s with buf := m, bitoff := b, fvalid := false } ∧
        getU m s.bitoff.toNat w.toNat = v.toNat % 2 ^ w.toNat ∧
        (∀ q, q < s.bitoff.toNat ∨ s.bitoff.toNat + w.toNat ≤ q → bitAt m q = bitAt s.buf q) ∧
        (∀ a, a < s.bitoff.toNat / 8 ∨ s.bitoff.toNat + w.toNat ≤ 8 * a →
          Memory.byteAt m a = Memory.byteAt s.buf a) ∧
        b.toNat = s.bitoff.toNat + w.toNat ∧
        (getS m s.bitoff.toNat w.toNat = v.toInt ↔ -2 ^ (w.toNat - 1) ≤ v.toInt ∧ v.toInt < 2 ^ (w.toNat - 1)))

/-- R109, R110: `SEEK` and `TELL`. -/
def Obligations.SeekAndTellUseTheCursor : Prop :=
  ∀ s : State,
    (∀ pos, exec (.seek pos) s = .next { s with bitoff := pos }) ∧
    exec .tell s = .next { s with res0 := s.bitoff }

/-- R111, R112: `BUFRD` and `BUFWR`, with every other byte unchanged. -/
def Obligations.ByteReadAndByteWrite : Prop :=
  ∀ (s : State) (idx : BitVec 16) (b : Byte),
    (bufCapacity s.cfg ≤ idx.toNat →
      exec (.bufrd idx) s = .next { s with ill := true } ∧ exec (.bufwr idx b) s = .next { s with ill := true }) ∧
    (idx.toNat < bufCapacity s.cfg →
      exec (.bufrd idx) s = .next { s with res0 := (Memory.byteAt s.buf idx.toNat).setWidth 32 } ∧
      ∃ m : Memory, exec (.bufwr idx b) s = .next { s with buf := m, fvalid := false } ∧
        Memory.byteAt m idx.toNat = b ∧ ∀ a, a ≠ idx.toNat → Memory.byteAt m a = Memory.byteAt s.buf a)

/-- R82: the wide reads, one value from two commands. -/
def Obligations.WideReadsGiveTheWholeField : Prop :=
  ∀ (s : State) (w : Nat), 33 ≤ w → w ≤ 64 → s.bitoff.toNat + w ≤ 8 * bufCapacity s.cfg →
    (∃ t, rduw w s = .next (getU s.buf s.bitoff.toNat w, t) ∧ t.buf = s.buf ∧ t.bitoff.toNat = s.bitoff.toNat + w) ∧
    (∃ t, rdsw w s = .next (getS s.buf s.bitoff.toNat w, t) ∧ t.buf = s.buf ∧ t.bitoff.toNat = s.bitoff.toNat + w)

/-! ### System commands and status (44_system.md, 10_state.md) -/

/-- R240, R241, R242: `NOP`, `STAT`, `GETR` of each of the sixteen registers. -/
def Obligations.SystemCommandsReadTheRegisters : Prop :=
  ∀ s : State,
    exec .nop s = .next s ∧
    exec .stat s = .next { s with res0 := statusWord s } ∧
    (∀ reg : BitVec 8, 0x0F < reg.toNat → exec (.getr reg) s = .next { s with ill := true }) ∧
    (∀ e ∈ [(0x00#8, statusWord s), (0x01#8, s.bitoff), (0x02#8, s.cnt.setWidth 32), (0x03#8, s.hlen.setWidth 32),
        (0x04#8, s.plen.setWidth 32), (0x05#8, s.star.setWidth 32), (0x06#8, s.word), (0x07#8, s.nbit.setWidth 32),
        (0x08#8, s.frLen.setWidth 32), (0x09#8, s.frPayoff.setWidth 32), (0x0A#8, s.frPaylen.setWidth 32),
        (0x0B#8, s.frId), (0x0C#8, s.frIdoff.setWidth 32), (0x0D#8, s.frIdlen.setWidth 32),
        (0x0E#8, (protoId s.cfg.proto).setWidth 32), (0x0F#8, s.cfg.bufCap.setWidth 32)],
      exec (.getr e.1) s = .next { s with res0 := e.2 })

/-- R24, R27, R152, R251: where each field of `STATUS` lies, the reserved bits that read 0, and the codes of the phases,
the error kinds and the protocols. -/
def Obligations.StatusWordLayout : Prop :=
  ([Phase.sync, .header, .payload, .check, .tbody, .tck, .tend, .ldata].map phaseCode = [0, 1, 2, 3, 4, 5, 6, 7]) ∧
  lastErrCode none = 0 ∧
  ([ErrKind.sync, .size, .checksum, .unknown, .decode, .trailing, .publication].map (fun k => lastErrCode (some k)) =
    [1, 2, 3, 4, 5, 6, 7]) ∧
  ([Proto.rtcm3, .bin, .ubx, .nmea, .legacy, .asterix].map protoId = [0, 1, 2, 3, 4, 5]) ∧
  ∀ s : State,
    (statusWord s).getLsbD 0 = s.done ∧ (statusWord s).getLsbD 1 = s.fvalid ∧ (statusWord s).getLsbD 2 = s.vok ∧
    (statusWord s).getLsbD 3 = s.mvalid ∧ (statusWord s).getLsbD 4 = s.ill ∧
    (statusWord s).extractLsb' 5 3 = 0 ∧ (statusWord s).extractLsb' 8 4 = lastErrCode s.lastErr ∧
    (statusWord s).extractLsb' 12 4 = phaseCode s.phase ∧ (statusWord s).extractLsb' 16 16 = 0

/-- R37, R280: hardware reset of an instance of any configuration. The contents of the result file, which R37 leaves
unspecified, are not stated (log entry 7), nor are the model's own fields (`q`, `n`; log entries 4, 8). That an
unspecified `BUF` is a list with nothing written is log entry 5; that State.reset is the reset of `resetCfg` is the
model's choice, log entry 2. -/
def Obligations.ResetLeavesTheSpecValues : Prop :=
  ∀ c : Cfg, ∃ f q n, State.resetWith c =
    { cfg := c, res0 := 0, res1 := 0, done := false, fvalid := false, vok := false, mvalid := false, ill := false
      lastErr := none, bitoff := 0, phase := .sync, cnt := 0, hlen := 0, plen := 0, star := 0, word := 0, nbit := 0
      frLen := 0, frPayoff := 0, frPaylen := 0, frId := 0, frIdoff := 0, frIdlen := 0, buf := [], msm := f
      events := [], port := q, freeCtr := n } ∧
    statusWord (State.resetWith c) = 0 ∧ State.reset = State.resetWith resetCfg

/-! ### Checksums (41_checksum.md) -/

/-- R126 to R129: the compute commands over a span. -/
def Obligations.ComputeCommandsOverASpan : Prop :=
  ∀ (s : State) (a : BitVec 16) (l : Word), a.toNat + l.toNat ≤ bufCapacity s.cfg →
    exec (.ckcCrc24q a l) s =
      .next { s with res0 := (crc24q s.cfg (memRead s.buf a.toNat l.toNat)).setWidth 32 } ∧
    exec (.ckcCrc32 a l) s = .next { s with res0 := crc32r s.cfg (memRead s.buf a.toNat l.toNat) } ∧
    exec (.ckcFlet a l) s = .next { s with res0 := (fletcher (memRead s.buf a.toNat l.toNat)).setWidth 32 } ∧
    exec (.ckcXor a l) s = .next { s with
      res0 := (xor8 (memRead s.buf a.toNat l.toNat)).setWidth 32
      res1 := (xorhex (memRead s.buf a.toNat l.toNat)).setWidth 32 }

/-- R131 to R134: the verify commands over a span. -/
def Obligations.VerifyCommandsOverASpan : Prop :=
  ∀ (s : State) (a : BitVec 16) (l : Word), a.toNat + l.toNat ≤ bufCapacity s.cfg →
    (∀ e, exec (.ckvCrc24q a l e) s = .next { s with
      res0 := if crc24q s.cfg (memRead s.buf a.toNat l.toNat) = e then 1 else 0
      vok := decide (crc24q s.cfg (memRead s.buf a.toNat l.toNat) = e) }) ∧
    (∀ e, exec (.ckvCrc32 a l e) s = .next { s with
      res0 := if crc32r s.cfg (memRead s.buf a.toNat l.toNat) = e then 1 else 0
      vok := decide (crc32r s.cfg (memRead s.buf a.toNat l.toNat) = e) }) ∧
    (∀ e, exec (.ckvFlet a l e) s = .next { s with
      res0 := if fletcher (memRead s.buf a.toNat l.toNat) = e then 1 else 0
      vok := decide (fletcher (memRead s.buf a.toNat l.toNat) = e) }) ∧
    (∀ e, exec (.ckvXor a l e) s = .next { s with
      res0 := if xorhex (memRead s.buf a.toNat l.toNat) = e then 1 else 0
      vok := decide (xorhex (memRead s.buf a.toNat l.toNat) = e) })

/-- R125, R130, R135, R136: the commands on a legacy word; first what `norm` and `hampar` compute, bit by bit.
For a mask with a bit below 6 (R130: `ARG0[5:0]` ignored) this follows R125's popcount: the model's choice, log entry 25. -/
def Obligations.HammingCommands : Prop :=
  ∀ (s : State) (x : Word),
    (∀ i < 32, (hamNorm x).getLsbD i = if 6 ≤ i ∧ i ≤ 29 then x.getLsbD i ^^ x.getLsbD 30 else x.getLsbD i) ∧
    (∀ e ∈ [(5, s.cfg.hamMask.m0), (4, s.cfg.hamMask.m1), (3, s.cfg.hamMask.m2), (2, s.cfg.hamMask.m3),
        (1, s.cfg.hamMask.m4), (0, s.cfg.hamMask.m5)],
      ((hampar s.cfg x).getLsbD e.1).toNat =
        (∑ k ∈ Finset.range 32, ((hamNorm x).getLsbD k && e.2.getLsbD k).toNat) % 2) ∧
    exec (.ckcHam x) s = .next { s with res0 := (hampar s.cfg x).setWidth 32 } ∧
    (∀ e, exec (.ckvHam x e) s = .next { s with
      res0 := if hampar s.cfg x = e then 1 else 0, vok := decide (hampar s.cfg x = e) }) ∧
    (hampar s.cfg x = (hamNorm x).extractLsb' 0 6 →
      exec (.hamdec x) s = .next { s with res0 := ((hamNorm x).extractLsb' 6 24).setWidth 32, vok := true }) ∧
    (hampar s.cfg x ≠ (hamNorm x).extractLsb' 0 6 →
      exec (.hamdec x) s = .next { s with res0 := 0, vok := false })

/-- R139: appending the checksum in wire order gives a zero residue, with the default parameters. -/
def Obligations.CrcResidueIsZero : Prop :=
  ∀ (c : Cfg) (bs : List Byte),
    (c.crc24Poly = 0x1864CFB → c.crc24Init = 0 →
      crc24q c (bs ++ [(crc24q c bs).extractLsb' 16 8, (crc24q c bs).extractLsb' 8 8, (crc24q c bs).extractLsb' 0 8])
        = 0) ∧
    (c.crc32Poly = 0xEDB88320 → c.crc32Init = 0 → c.crc32Xorout = 0 →
      crc32r c (bs ++ [(crc32r c bs).extractLsb' 0 8, (crc32r c bs).extractLsb' 8 8, (crc32r c bs).extractLsb' 16 8,
        (crc32r c bs).extractLsb' 24 8]) = 0)

/-- R121 to R124, R138: what the span functions compute. The Fletcher sums in closed form, modulo 256; the exclusive-or
bit by bit and its two rendered characters; one more byte of each CRC as eight steps on numbers, `CRC24_POLY` with its
leading 1 (R7); the start values on an empty span. -/
def Obligations.FletcherAndEmptySpans : Prop :=
  (∀ bs : List Byte, (fletcher bs).toNat =
    (∑ i ∈ Finset.range bs.length, (bs.getD i 0).toNat) % 256 * 256 +
      (∑ i ∈ Finset.range bs.length, (bs.length - i) * (bs.getD i 0).toNat) % 256) ∧
  (∀ (bs : List Byte), ∀ j < 8, ((xor8 bs).getLsbD j).toNat =
    (∑ i ∈ Finset.range bs.length, ((bs.getD i 0).getLsbD j).toNat) % 2) ∧
  (∀ bs : List Byte, ∃ hi lo : Byte, xorhex bs = hi ++ lo ∧
    ([0x30, 0x31, 0x32, 0x33, 0x34, 0x35, 0x36, 0x37, 0x38, 0x39, 0x41, 0x42, 0x43, 0x44, 0x45, 0x46] : List Byte)[
      (xor8 bs).toNat / 16]? = some hi ∧
    ([0x30, 0x31, 0x32, 0x33, 0x34, 0x35, 0x36, 0x37, 0x38, 0x39, 0x41, 0x42, 0x43, 0x44, 0x45, 0x46] : List Byte)[
      (xor8 bs).toNat % 16]? = some lo) ∧
  (∀ (c : Cfg) (bs : List Byte) (b : Byte), c.crc24Poly.getLsbD 24 = true →
    (crc24q c (bs ++ [b])).toNat =
      (fun r : Nat => if 2 * r < 2 ^ 24 then 2 * r else (2 * r) ^^^ c.crc24Poly.toNat)^[8]
        ((crc24q c bs).toNat ^^^ b.toNat * 2 ^ 16)) ∧
  (∀ (c : Cfg) (bs : List Byte) (b : Byte),
    (crc32r c (bs ++ [b]) ^^^ c.crc32Xorout).toNat =
      (fun r : Nat => if r % 2 = 1 then (r / 2) ^^^ c.crc32Poly.toNat else r / 2)^[8]
        ((crc32r c bs ^^^ c.crc32Xorout).toNat ^^^ b.toNat)) ∧
  (∀ c : Cfg, crc24q c [] = c.crc24Init ∧ crc32r c [] = c.crc32Init ^^^ c.crc32Xorout ∧ fletcher [] = 0 ∧
    xor8 [] = 0 ∧ xorhex [] = 0x3030)

/-- R140: the 30 bits a host sends for source data are accepted and give the data back, after any two previous bits. -/
def Obligations.HostBuiltLegacyWordDecodes : Prop :=
  ∀ (c : Cfg) (q : BitVec 2) (d : BitVec 24), c.hamMask = hamStandard →
    hamok c (q ++ hamSend c q d) = true ∧ hamdata (q ++ hamSend c q d) = d

/-! ### The framer (42_framer.md) -/

/-- R150, R252: on a well-formed configuration `PUSH` always completes, reports `DONE`, emits at most one event, of a
kind of the framer's, and touches nothing that is not the framer's. -/
def Obligations.PushAlwaysCompletes : Prop :=
  ∀ (s : State) (b : Byte), cfgWf s.cfg = true →
    ∃ t, exec (.push b) s = .next t ∧ t.res0 = (if t.done then 1 else 0) ∧
      t.cfg = s.cfg ∧ t.res1 = s.res1 ∧ t.vok = s.vok ∧ t.mvalid = s.mvalid ∧ t.ill = s.ill ∧
      t.bitoff = s.bitoff ∧ t.msm = s.msm ∧ t.port = s.port ∧ t.done = t.fvalid ∧
      ((t.events = s.events ∧ t.lastErr = none ∧ t.done = false) ∨
       (∃ id bs o l, t.events = s.events ++ [.frame (protoId s.cfg.proto) id bs o l] ∧
          t.lastErr = none ∧ t.done = true) ∨
       (∃ k id, (k = .size ∨ k = .checksum) ∧ t.events = s.events ++ [.err k (protoId s.cfg.proto) id] ∧
          t.lastErr = some k ∧ t.done = false))

/-- R154: the sync search of the generic machine. -/
def Obligations.GenericSyncSearch : Prop :=
  ∀ (s : State) (b : Byte) (g : Generic), cfgWf s.cfg = true → genericOf s.cfg.proto = some g → s.phase = .sync →
    ((syncBytes s.cfg g)[s.cnt.toNat]? = some b →
      exec (.push b) s = .next { s with
        done := false, fvalid := false, lastErr := none, res0 := 0
        buf := Memory.set s.buf s.cnt.toNat b, cnt := s.cnt + 1
        phase := if (s.cnt + 1).toNat = (syncBytes s.cfg g).length then .header else .sync }) ∧
    ((syncBytes s.cfg g)[s.cnt.toNat]? ≠ some b → (syncBytes s.cfg g)[0]? = some b →
      exec (.push b) s = .next { s with
        done := false, fvalid := false, lastErr := none, res0 := 0
        buf := Memory.set s.buf 0 b, cnt := 1
        phase := if (syncBytes s.cfg g).length = 1 then .header else .sync }) ∧
    ((syncBytes s.cfg g)[s.cnt.toNat]? ≠ some b → (syncBytes s.cfg g)[0]? ≠ some b →
      exec (.push b) s = .next { s with
        done := false, fvalid := false, lastErr := none, res0 := 0, cnt := 0 })

/-- R155: outside `SYNC` the byte is stored at `BUF[CNT]`, inside the buffer, and no other byte changes. -/
def Obligations.GenericByteIsStoredAtCnt : Prop :=
  ∀ (s : State) (b : Byte) (g : Generic), StateInv s → genericOf s.cfg.proto = some g → s.phase ≠ .sync →
    ¬ (midSync s.cfg g = true ∧ (syncBytes s.cfg g)[0]? = some b) →
    s.cnt.toNat < bufCapacity s.cfg ∧
    ∃ t, exec (.push b) s = .next t ∧ Memory.byteAt t.buf s.cnt.toNat = b ∧
      (∀ a, a ≠ s.cnt.toNat → Memory.byteAt t.buf a = Memory.byteAt s.buf a) ∧
      (s.cnt.toNat + 1 < lKnown s.cfg g → t.cnt.toNat = s.cnt.toNat + 1 ∧ t.phase = s.phase ∧ t.events = s.events)

/-- R156: the lengths, when `CNT` becomes `LKNOWN`. -/
def Obligations.GenericLengthDetermination : Prop :=
  ∀ (s : State) (b : Byte) (g : Generic) (m : Memory), cfgWf s.cfg = true → genericOf s.cfg.proto = some g →
    s.phase ≠ .sync → ¬ (midSync s.cfg g = true ∧ (syncBytes s.cfg g)[0]? = some b) →
    s.cnt.toNat + 1 = lKnown s.cfg g → m = Memory.set s.buf s.cnt.toNat b →
    ((headerLen s.cfg m g < lKnown s.cfg g ∨ payloadLen s.cfg m g < 0) →
      exec (.push b) s = .next { s with
        done := false, fvalid := false, lastErr := none, res0 := 0, buf := m, phase := .sync, cnt := 0 }) ∧
    (lKnown s.cfg g ≤ headerLen s.cfg m g → 0 ≤ payloadLen s.cfg m g →
      bufCapacity s.cfg < headerLen s.cfg m g + (payloadLen s.cfg m g).toNat + ckBytes g →
      exec (.push b) s = .next { s with
        done := false, fvalid := false, lastErr := some .size, res0 := 0, buf := m, phase := .sync, cnt := 0
        events := s.events ++ [.err .size (protoId s.cfg.proto) none] }) ∧
    (lKnown s.cfg g ≤ headerLen s.cfg m g → 0 ≤ payloadLen s.cfg m g →
      headerLen s.cfg m g + (payloadLen s.cfg m g).toNat + ckBytes g ≤ bufCapacity s.cfg →
      ∃ t, exec (.push b) s = .next t ∧ t.buf = m ∧ t.hlen.toNat = headerLen s.cfg m g ∧
        (t.plen.toNat : Int) = payloadLen s.cfg m g)

/-- R157, R158: the phase of the next byte, and completion; `H`, `P` are the lengths, just determined or held. -/
def Obligations.GenericPhaseAndCompletion : Prop :=
  ∀ (s : State) (b : Byte) (g : Generic) (m : Memory) (H P : Nat), StateInv s → genericOf s.cfg.proto = some g →
    s.phase ≠ .sync → ¬ (midSync s.cfg g = true ∧ (syncBytes s.cfg g)[0]? = some b) →
    m = Memory.set s.buf s.cnt.toNat b →
    ((lKnown s.cfg g < s.cnt.toNat + 1 ∧ H = s.hlen.toNat ∧ P = s.plen.toNat) ∨
     (s.cnt.toNat + 1 = lKnown s.cfg g ∧ H = headerLen s.cfg m g ∧ (P : Int) = payloadLen s.cfg m g ∧
       lKnown s.cfg g ≤ H ∧ H + P + ckBytes g ≤ bufCapacity s.cfg)) →
    (s.cnt.toNat + 1 < H + P + ckBytes g →
      exec (.push b) s = .next { s with
        done := false, fvalid := false, lastErr := none, res0 := 0, buf := m, cnt := s.cnt + 1
        hlen := BitVec.ofNat 16 H, plen := BitVec.ofNat 16 P
        phase := if s.cnt.toNat + 1 < H then .header else if s.cnt.toNat + 1 < H + P then .payload else .check }) ∧
    (H + P + ckBytes g ≤ s.cnt.toNat + 1 →
      (ckBytes g = 0 ∨ ckCompute s.cfg (memRead m (ckStart g) (H + P - ckStart g)) g = ckReceived m (H + P) g) →
      exec (.push b) s = .next { s with
        done := true, fvalid := true, lastErr := none, res0 := 1, buf := m, cnt := 0, phase := .sync
        hlen := BitVec.ofNat 16 H, plen := BitVec.ofNat 16 P
        frLen := s.cnt + 1, frPayoff := BitVec.ofNat 16 H, frPaylen := BitVec.ofNat 16 P
        frId := BitVec.ofNat 32 (frameId s.cfg m g), frIdoff := 0, frIdlen := 0
        events := s.events ++ [.frame (protoId s.cfg.proto) (.num (BitVec.ofNat 32 (frameId s.cfg m g)))
          (memRead m 0 (s.cnt.toNat + 1)) H P] }) ∧
    (H + P + ckBytes g ≤ s.cnt.toNat + 1 → 0 < ckBytes g →
      ckCompute s.cfg (memRead m (ckStart g) (H + P - ckStart g)) g ≠ ckReceived m (H + P) g →
      exec (.push b) s = .next { s with
        done := false, fvalid := false, lastErr := some .checksum, res0 := 0, buf := m, cnt := 0, phase := .sync
        hlen := BitVec.ofNat 16 H, plen := BitVec.ofNat 16 P
        events := s.events ++ [.err .checksum (protoId s.cfg.proto) none] })

/-- R159: mid-frame resynchronisation where `MIDSYNC = 1`; an RTCM3 instance never does it. -/
def Obligations.MidFrameSyncByteRestarts : Prop :=
  (∀ c : Cfg, midSync c .rtcm3 = false) ∧
  (∀ (s : State) (b : Byte) (g : Generic), cfgWf s.cfg = true → genericOf s.cfg.proto = some g → s.phase ≠ .sync →
    midSync s.cfg g = true → (syncBytes s.cfg g)[0]? = some b →
    exec (.push b) s = .next { s with
      done := false, fvalid := false, lastErr := none, res0 := 0, buf := Memory.set s.buf 0 b, cnt := 1
      phase := if (syncBytes s.cfg g).length = 1 then .header else .sync })

/-- R162, R164, R166, R169: the constant fields of the four descriptors, and what they read, against the big-endian
fields of the same buffer. -/
def Obligations.DescriptorsReadTheHeader : Prop :=
  ∀ (c : Cfg) (m : Memory) (e : Nat),
    (syncBytes c .rtcm3 = [0xD3] ∧ syncBytes c .ubx = [0xB5, 0x62] ∧
      syncBytes c .bin = [c.binSync0, c.binSync1, c.binSync2] ∧
      ∀ k, c.astCat = some k → syncBytes c .asterix = [k]) ∧
    (lKnown c .rtcm3 = 3 ∧ lKnown c .ubx = 6 ∧ lKnown c .bin = c.binLknown ∧ lKnown c .asterix = 3) ∧
    (headerLen c m .rtcm3 = 3 ∧ headerLen c m .ubx = 6 ∧ headerLen c m .asterix = 3) ∧
    (ckBytes .rtcm3 = 3 ∧ ckBytes .ubx = 2 ∧ ckBytes .bin = 4 ∧ ckBytes .asterix = 0) ∧
    (ckStart .rtcm3 = 0 ∧ ckStart .ubx = 2 ∧ ckStart .bin = 0) ∧
    (∀ bs, ckCompute c bs .rtcm3 = (crc24q c bs).toNat ∧ ckCompute c bs .ubx = (fletcher bs).toNat ∧
      ckCompute c bs .bin = (crc32r c bs).toNat) ∧
    (midSync c .rtcm3 = false ∧ midSync c .ubx = c.midsyncUbx ∧ midSync c .bin = c.midsyncBin ∧
      midSync c .asterix = c.midsyncAst) ∧
    payloadLen c m .rtcm3 = (getU m 14 10 : Int) ∧ frameId c m .rtcm3 = getU m 24 12 ∧
    ckReceived m e .rtcm3 = getU m (8 * e) 24 ∧
    payloadLen c m .ubx = (getU m 32 8 + getU m 40 8 * 256 : Nat) ∧ frameId c m .ubx = getU m 16 16 ∧
    ckReceived m e .ubx = getU m (8 * e) 16 ∧
    headerLen c m .bin = getU m (8 * c.binHlenOff) 8 ∧
    payloadLen c m .bin = (getU m (8 * c.binPlenOff) 8 + getU m (8 * c.binPlenOff + 8) 8 * 256 : Nat) ∧
    frameId c m .bin = getU m (8 * c.binIdOff) 8 + getU m (8 * c.binIdOff + 8) 8 * 256 ∧
    ckReceived m e .bin = getU m (8 * e) 8 + getU m (8 * e + 8) 8 * 2 ^ 8 + getU m (8 * e + 16) 8 * 2 ^ 16
      + getU m (8 * e + 24) 8 * 2 ^ 24 ∧
    payloadLen c m .asterix = (getU m 8 16 : Int) - 3 ∧ frameId c m .asterix = getU m 0 8

/-- R182: in `SYNC`, bytes that are not the first sync byte (nor a marker) change nothing but the flags and `RES0`. -/
def Obligations.NoiseBeforeAFrameIsSkipped : Prop :=
  (∀ (s : State) (bs : List Byte) (g : Generic), cfgWf s.cfg = true → genericOf s.cfg.proto = some g →
    s.phase = .sync → s.cnt = 0 → bs ≠ [] → (∀ b ∈ bs, (syncBytes s.cfg g)[0]? ≠ some b) →
    pushn bs s = .next ((), { s with done := false, fvalid := false, lastErr := none, res0 := 0 })) ∧
  (∀ (s : State) (bs : List Byte), cfgWf s.cfg = true → s.cfg.proto = .nmea → s.phase = .sync → bs ≠ [] →
    (∀ b ∈ bs, b ≠ 0x24 ∧ b ≠ 0x21) →
    pushn bs s = .next ((), { s with done := false, fvalid := false, lastErr := none, res0 := 0 }))

/-- R182, R53: any valid RTCM v3 frame that fits, pushed from `SYNC`, gives exactly one FRAME event with its bytes. -/
def Obligations.AnyValidRtcmFrameIsReceived : Prop :=
  ∀ (s : State) (h1 h2 : Byte) (payload : List Byte) (crc : BitVec 24), cfgWf s.cfg = true → s.cfg.proto = .rtcm3 →
    s.phase = .sync → s.cnt = 0 → payload.length = h1.toNat % 4 * 256 + h2.toNat →
    payload.length + 6 ≤ bufCapacity s.cfg → crc = crc24q s.cfg (0xD3 :: h1 :: h2 :: payload) →
    ∃ id t, pushn (0xD3 :: h1 :: h2 :: payload ++
        [crc.extractLsb' 16 8, crc.extractLsb' 8 8, crc.extractLsb' 0 8]) s = .next ((), t) ∧
      t.events = s.events ++ [.frame 0 (.num id) (0xD3 :: h1 :: h2 :: payload ++
        [crc.extractLsb' 16 8, crc.extractLsb' 8 8, crc.extractLsb' 0 8]) 3 payload.length] ∧
      t.phase = .sync ∧ t.cnt = 0 ∧ t.fvalid = true ∧ t.done = true ∧ t.frLen.toNat = payload.length + 6 ∧
      (2 ≤ payload.length → id.toNat = (payload.getD 0 0).toNat * 16 + (payload.getD 1 0).toNat / 16)

/-- R151, R181: `RESET` clears the framer and its flags and nothing else. -/
def Obligations.ResetCommandClearsTheFramer : Prop :=
  ∀ s : State, exec .reset s = .next { s with
    phase := .sync, cnt := 0, hlen := 0, plen := 0, star := 0, word := 0, nbit := 0
    done := false, fvalid := false, lastErr := none }

/-- R160: after every `PUSH` that emits an event the framer is in `SYNC` with `CNT = 0`. On a legacy instance R180's
reason needs a preamble other than 0 (log entry 12). -/
def Obligations.EveryEventReturnsTheFramerToSync : Prop :=
  ∀ (s t : State) (b : Byte), cfgWf s.cfg = true → (s.cfg.proto = .legacy → s.cfg.legPreamble ≠ 0) →
    exec (.push b) s = .next t → t.events ≠ s.events → t.phase = .sync ∧ t.cnt = 0

/-- R171, R172: markers, and the byte that does not fit. -/
def Obligations.TextMarkersAndOverflow : Prop :=
  ∀ (s : State) (b : Byte), cfgWf s.cfg = true → s.cfg.proto = .nmea →
    (b = 0x24 ∨ b = 0x21 →
      exec (.push b) s = .next { s with
        done := false, fvalid := false, lastErr := none, res0 := 0
        buf := Memory.set s.buf 0 b, cnt := 1, star := 0, phase := .tbody }) ∧
    (b ≠ 0x24 → b ≠ 0x21 → s.phase = .sync →
      exec (.push b) s = .next { s with done := false, fvalid := false, lastErr := none, res0 := 0 }) ∧
    (b ≠ 0x24 → b ≠ 0x21 → s.phase ∈ [Phase.tbody, .tck, .tend] → bufCapacity s.cfg ≤ s.cnt.toNat →
      exec (.push b) s = .next { s with
        done := false, fvalid := false, lastErr := some .size, res0 := 0, phase := .sync, cnt := 0, star := 0
        events := s.events ++ [.err .size 3 none] }) ∧
    (b ≠ 0x24 → b ≠ 0x21 → s.phase ∈ [Phase.tbody, .tck, .tend] → s.cnt.toNat < bufCapacity s.cfg →
      ∃ t, exec (.push b) s = .next t ∧ Memory.byteAt t.buf s.cnt.toNat = b ∧
        ∀ a, a ≠ s.cnt.toNat → Memory.byteAt t.buf a = Memory.byteAt s.buf a)

/-- R173: the steps of the body, the two characters and the terminator. -/
def Obligations.TextPhaseSteps : Prop :=
  ∀ (s : State) (b : Byte) (m : Memory), cfgWf s.cfg = true → s.cfg.proto = .nmea → b ≠ 0x24 → b ≠ 0x21 →
    s.cnt.toNat < bufCapacity s.cfg → m = Memory.set s.buf s.cnt.toNat b →
    (s.phase = .tbody → b = 0x2A →
      ∃ st : BitVec 16, st.toNat = s.cnt.toNat ∧ exec (.push b) s = .next { s with
        done := false, fvalid := false, lastErr := none, res0 := 0
        buf := m, cnt := s.cnt + 1, star := st, phase := .tck }) ∧
    (s.phase = .tbody → b ≠ 0x2A →
      exec (.push b) s = .next { s with
        done := false, fvalid := false, lastErr := none, res0 := 0, buf := m, cnt := s.cnt + 1 }) ∧
    (s.phase = .tck →
      exec (.push b) s = .next { s with
        done := false, fvalid := false, lastErr := none, res0 := 0, buf := m, cnt := s.cnt + 1
        phase := if s.cnt.toNat + 1 = s.star.toNat + 3 then .tend else .tck }) ∧
    (s.phase = .tend → s.cnt.toNat + 1 = s.star.toNat + 4 → b = 0x0D →
      exec (.push b) s = .next { s with
        done := false, fvalid := false, lastErr := none, res0 := 0, buf := m, cnt := s.cnt + 1 }) ∧
    (s.phase = .tend → (if s.cnt.toNat + 1 = s.star.toNat + 4 then b ≠ 0x0D else b ≠ 0x0A) →
      exec (.push b) s = .next { s with
        done := false, fvalid := false, lastErr := none, res0 := 0, buf := m, cnt := 0, star := 0, phase := .sync })

/-- R174: completion of a sentence at its LF; `c` is the length of the string id. -/
def Obligations.TextCompletion : Prop :=
  ∀ (s : State) (m : Memory) (body : List Byte), cfgWf s.cfg = true → s.cfg.proto = .nmea → s.phase = .tend →
    1 ≤ s.star.toNat → s.cnt.toNat + 1 = s.star.toNat + 5 → s.cnt.toNat < bufCapacity s.cfg →
    m = Memory.set s.buf s.cnt.toNat 0x0A → body = memRead m 1 (s.star.toNat - 1) →
    (xorhex body = Memory.byteAt m (s.star.toNat + 1) ++ Memory.byteAt m (s.star.toNat + 2) →
      ∃ c ≤ body.length, (∀ j < c, body.getD j 0 ≠ 0x2C) ∧ (c < body.length → body.getD c 0 = 0x2C) ∧
        exec (.push 0x0A) s = .next { s with
          done := true, fvalid := true, lastErr := none, res0 := 1, buf := m, cnt := 0, star := 0, phase := .sync
          frLen := s.cnt + 1, frPayoff := 1, frPaylen := s.star - 1, frId := 0, frIdoff := 1
          frIdlen := BitVec.ofNat 16 c
          events := s.events ++ [.frame 3 (.str (body.take c)) (memRead m 0 (s.cnt.toNat + 1)) 1
            (s.star.toNat - 1)] }) ∧
    (xorhex body ≠ Memory.byteAt m (s.star.toNat + 1) ++ Memory.byteAt m (s.star.toNat + 2) →
      exec (.push 0x0A) s = .next { s with
        done := false, fvalid := false, lastErr := some .checksum, res0 := 0, buf := m, cnt := 0, star := 0
        phase := .sync, events := s.events ++ [.err .checksum 3 none] })

/-- R176, R177: the byte filter, and the six low bits fed least significant first. -/
def Obligations.LegacyByteFilterAndFeed : Prop :=
  ∀ (s : State) (b : Byte), cfgWf s.cfg = true → s.cfg.proto = .legacy →
    (b.extractLsb' 6 2 ≠ 1 →
      exec (.push b) s = .next { s with done := false, fvalid := false, lastErr := none, res0 := 0 }) ∧
    (b.extractLsb' 6 2 = 1 →
      exec (.push b) s = .next (reportDone (legacyBit (legacyBit (legacyBit (legacyBit (legacyBit (legacyBit
        { s with done := false, fvalid := false, lastErr := none }
        (b.getLsbD 0)) (b.getLsbD 1)) (b.getLsbD 2)) (b.getLsbD 3)) (b.getLsbD 4)) (b.getLsbD 5))))

/-- R178, R179, R180: what one bit does; `W` is `WORD` with the bit shifted in. -/
def Obligations.LegacyBitRules : Prop :=
  ∀ (s : State) (v : Bool) (W : Word), W.toNat = (s.word.toNat * 2 + v.toNat) % 2 ^ 32 →
    (s.phase = .sync →
      (if W.getLsbD 30 then W.extractLsb' 22 8 ^^^ 0xFF else W.extractLsb' 22 8) = s.cfg.legPreamble →
      hamok s.cfg W = true →
      legacyBit s v = { s with
        word := W, buf := memWrite s.buf 0 (hamBytes W), cnt := 3, nbit := 0, phase := .ldata }) ∧
    (s.phase = .sync →
      ((if W.getLsbD 30 then W.extractLsb' 22 8 ^^^ 0xFF else W.extractLsb' 22 8) ≠ s.cfg.legPreamble ∨
        hamok s.cfg W = false) →
      legacyBit s v = { s with word := W }) ∧
    (s.phase = .ldata → s.nbit.toNat < 29 → legacyBit s v = { s with word := W, nbit := s.nbit + 1 }) ∧
    (s.phase = .ldata → s.nbit = 29 → hamok s.cfg W = false →
      legacyBit s v = { s with
        word := W &&& 3, nbit := 0, phase := .sync, cnt := 0, lastErr := some .checksum
        events := s.events ++ [.err .checksum (protoId s.cfg.proto)
          (some (BitVec.ofNat 32 ((Memory.byteAt s.buf 1).toNat / 4)))] }) ∧
    (s.phase = .ldata → s.nbit = 29 → hamok s.cfg W = true →
      ∀ (m : Memory) (pl : Nat), m = memWrite s.buf s.cnt.toNat (hamBytes W) →
      pl = (Memory.byteAt m 5).toNat / 8 * 3 →
      (s.cnt = 3 → bufCapacity s.cfg < 6 + pl →
        legacyBit s v = { s with
          word := W &&& 3, nbit := 0, phase := .sync, cnt := 0, lastErr := some .size, buf := m
          hlen := 6, plen := BitVec.ofNat 16 pl
          events := s.events ++ [.err .size (protoId s.cfg.proto)
            (some (BitVec.ofNat 32 ((Memory.byteAt m 1).toNat / 4)))] }) ∧
      (s.cnt = 3 → 6 + pl ≤ bufCapacity s.cfg → 0 < pl →
        legacyBit s v = { s with
          word := W, nbit := 0, cnt := 6, buf := m, hlen := 6, plen := BitVec.ofNat 16 pl }) ∧
      (s.cnt = 3 → 6 ≤ bufCapacity s.cfg → pl = 0 →
        legacyBit s v = { s with
          word := W &&& 3, nbit := 0, phase := .sync, cnt := 0, buf := m, hlen := 6, plen := 0
          frLen := 6, frPayoff := 6, frPaylen := 0, frId := BitVec.ofNat 32 ((Memory.byteAt m 1).toNat / 4)
          frIdoff := 0, frIdlen := 0, fvalid := true, done := true
          events := s.events ++ [.frame 4 (.num (BitVec.ofNat 32 ((Memory.byteAt m 1).toNat / 4)))
            (memRead m 0 6) 6 0] }) ∧
      (6 ≤ s.cnt.toNat → s.cnt.toNat + 3 < s.hlen.toNat + s.plen.toNat →
        legacyBit s v = { s with word := W, nbit := 0, cnt := s.cnt + 3, buf := m }) ∧
      (6 ≤ s.cnt.toNat → s.cnt.toNat + 3 < 2 ^ 17 → s.hlen.toNat + s.plen.toNat ≤ s.cnt.toNat + 3 →
        legacyBit s v = { s with
          word := W &&& 3, nbit := 0, phase := .sync, cnt := 0, buf := m
          frLen := s.cnt + 3, frPayoff := 6, frPaylen := s.plen
          frId := BitVec.ofNat 32 ((Memory.byteAt m 1).toNat / 4), frIdoff := 0, frIdlen := 0
          fvalid := true, done := true
          events := s.events ++ [.frame 4 (.num (BitVec.ofNat 32 ((Memory.byteAt m 1).toNat / 4)))
            (memRead m 0 (s.cnt.toNat + 3)) 6 s.plen.toNat] }))

/-! ### The MSM unpacker (43_msm.md) -/

/-- R200, R207, R209, R211, R213, R222, R223: the failures, first failing step first, and what a failure leaves. With
`NSIG = 0 < NSAT`, `need` is that of R200 and R212, not of R219's first sentence: the model's choice, log entry 24. -/
def Obligations.MsmdecFailures : Prop :=
  ∀ (s : State) (sys : BitVec 4) (x : BitVec 1) (p l : Word) (k : ErrKind) (n need : Nat),
    sys.toNat ≤ 5 → p.toNat + l.toNat ≤ bufCapacity s.cfg →
    n = nSat s.cfg.msm s.buf p.toNat * nSig s.cfg.msm s.buf p.toNat →
    need = hdrBits s.cfg.msm + n + nSat s.cfg.msm s.buf p.toNat * satBits s.cfg.msm (variantOf x) +
      nCell s.cfg.msm s.buf p.toNat * cellBits s.cfg.msm (variantOf x) →
    ((8 * l.toNat < hdrBits s.cfg.msm ∧ k = .trailing) ∨
     (hdrBits s.cfg.msm ≤ 8 * l.toNat ∧ 64 < n ∧ k = .decode) ∨
     (hdrBits s.cfg.msm ≤ 8 * l.toNat ∧ n ≤ 64 ∧ 8 * l.toNat < hdrBits s.cfg.msm + n ∧ k = .trailing) ∨
     (hdrBits s.cfg.msm ≤ 8 * l.toNat ∧ n ≤ 64 ∧ hdrBits s.cfg.msm + n ≤ 8 * l.toNat ∧ 8 * l.toNat < need ∧
       k = .trailing) ∨
     (n ≤ 64 ∧ need ≤ 8 * l.toNat ∧ (need + 7) / 8 ≠ l.toNat ∧ k = .trailing)) →
    ∃ f c, exec (.msmdec sys 0 x p l) s = .next { s with
      res0 := 0, mvalid := false, lastErr := some k, msm := f, freeCtr := c
      events := s.events ++ [.err k (protoId s.cfg.proto)
        (if 2 ≤ l.toNat then some (BitVec.ofNat 32 (getU s.buf (8 * p.toNat) 12)) else none)] }

/-- R200 step 10, R256: a record that decodes. `MH_BITS` is `need` cut to the 16 bits of R33, which for constants wider
than the defaults is the model's choice (log entry 3), as is `need` with `NSIG = 0 < NSAT` (log entry 24). -/
def Obligations.MsmdecSuccess : Prop :=
  ∀ (s : State) (sys : BitVec 4) (x : BitVec 1) (p l : Word) (n need : Nat),
    sys.toNat ≤ 5 → p.toNat + l.toNat ≤ bufCapacity s.cfg →
    n = nSat s.cfg.msm s.buf p.toNat * nSig s.cfg.msm s.buf p.toNat →
    need = hdrBits s.cfg.msm + n + nSat s.cfg.msm s.buf p.toNat * satBits s.cfg.msm (variantOf x) +
      nCell s.cfg.msm s.buf p.toNat * cellBits s.cfg.msm (variantOf x) →
    n ≤ 64 → need ≤ 8 * l.toNat → (need + 7) / 8 = l.toNat →
    ∃ f, exec (.msmdec sys 0 x p l) s = .next { s with
        res0 := 1, mvalid := true, lastErr := none, msm := f
        events := s.events ++ [.msg (protoId s.cfg.proto) f.hdr.msgnum f] } ∧
      f.hdr.var = variantOf x ∧ gnssCode f.hdr.sys = sys ∧ f.hdr.bits = BitVec.ofNat 16 need ∧
      f.sats.length = nSat s.cfg.msm s.buf p.toNat ∧ f.cells.length = nCell s.cfg.msm s.buf p.toNat

/-- R205, R206: the header fields of a decoded record, with the default constants. -/
def Obligations.MsmHeaderFields : Prop :=
  ∀ (s : State) (sys : BitVec 4) (z : BitVec 3) (x : BitVec 1) (p l : Word) (g : GnssSys) (q : Nat),
    s.cfg.msm = msmStandard → MsmDecodes s sys z x p l g → q = 8 * p.toNat →
    ∃ t, exec (.msmdec sys z x p l) s = .next t ∧
      t.msm.hdr.msgnum.toNat = getU s.buf q 12 ∧ t.msm.hdr.station.toNat = getU s.buf (q + 12) 12 ∧
      (g = .glo → t.msm.hdr.dow.toNat = getU s.buf (q + 24) 3 ∧ t.msm.hdr.epoch.toNat = getU s.buf (q + 27) 27) ∧
      (g = .bds → t.msm.hdr.dow = 0 ∧ t.msm.hdr.epoch.toNat = getU s.buf (q + 24) 30 + 14000) ∧
      (g ≠ .glo → g ≠ .bds → t.msm.hdr.dow = 0 ∧ t.msm.hdr.epoch.toNat = getU s.buf (q + 24) 30) ∧
      t.msm.hdr.multi.toNat = getU s.buf (q + 54) 1 ∧ t.msm.hdr.iods.toNat = getU s.buf (q + 55) 3 ∧
      t.msm.hdr.session.toNat = getU s.buf (q + 58) 7 ∧ t.msm.hdr.clksteer.toNat = getU s.buf (q + 65) 2 ∧
      t.msm.hdr.extclk.toNat = getU s.buf (q + 67) 2 ∧ t.msm.hdr.smooth.toNat = getU s.buf (q + 69) 1 ∧
      t.msm.hdr.smint.toNat = getU s.buf (q + 70) 3 ∧ t.msm.hdr.satmask.toNat = getU s.buf (q + 73) 64 ∧
      t.msm.hdr.sigmask.toNat = getU s.buf (q + 137) 32 ∧
      t.msm.hdr.nsat.toNat = popcount t.msm.hdr.satmask ∧ t.msm.hdr.nsig.toNat = popcount t.msm.hdr.sigmask ∧
      t.msm.hdr.ncell.toNat = popcount t.msm.hdr.cellmask

/-- R208, R229: the satellites of a decoded record are the ascending positions of the mask's bits; PRN offsets. Where
`S_ID + PRN_OFF` passes 16 bits, `S_PRN` is its low 16: the model's choice, log entry 3. -/
def Obligations.MsmSatellitesFollowTheMask : Prop :=
  ∀ (s : State) (sys : BitVec 4) (z : BitVec 3) (x : BitVec 1) (p l : Word) (g : GnssSys),
    MsmDecodes s sys z x p l g →
    ∃ t, exec (.msmdec sys z x p l) s = .next t ∧
      (t.msm.sats.map (fun e => e.id.toNat)).Pairwise (· < ·) ∧
      (∀ j, j ∈ t.msm.sats.map (fun e => e.id.toNat) ↔
        1 ≤ j ∧ j ≤ 64 ∧ t.msm.hdr.satmask.getLsbD (64 - j) = true) ∧
      (∀ e ∈ t.msm.sats, e.prn = e.id.setWidth 16 + prnOff s.cfg.msm.prnOff g)

/-- R210, R218: the cells of a decoded record are the marked pairs in satellite-major order, and no others; the signal id
of a cell is the `C_SIG`-th set position of the signal mask. -/
def Obligations.MsmCellsFollowTheCellMask : Prop :=
  ∀ (s : State) (sys : BitVec 4) (z : BitVec 3) (x : BitVec 1) (p l : Word) (g : GnssSys),
    MsmDecodes s sys z x p l g →
    ∃ t, exec (.msmdec sys z x p l) s = .next t ∧
      (t.msm.cells.map (fun e => e.sat.toNat * t.msm.hdr.nsig.toNat + e.sig.toNat)).Pairwise (· < ·) ∧
      (∀ i j, (i, j) ∈ t.msm.cells.map (fun e => (e.sat.toNat, e.sig.toNat)) ↔
        i < t.msm.hdr.nsat.toNat ∧ j < t.msm.hdr.nsig.toNat ∧
          t.msm.hdr.cellmask.getLsbD (63 - (i * t.msm.hdr.nsig.toNat + j)) = true) ∧
      (∀ i j, i < t.msm.hdr.nsat.toNat → j < t.msm.hdr.nsig.toNat →
        t.msm.hdr.cellmask.getLsbD (63 - (i * t.msm.hdr.nsig.toNat + j)) =
          bitAt s.buf (8 * p.toNat + hdrBits s.cfg.msm + i * t.msm.hdr.nsig.toNat + j)) ∧
      (∀ e ∈ t.msm.cells, t.msm.hdr.sigmask.getLsbD (32 - e.sigid.toNat) = true ∧ 1 ≤ e.sigid.toNat ∧
        e.sigid.toNat ≤ 32 ∧
        ((List.range' 1 32).filter (fun j => t.msm.hdr.sigmask.getLsbD (32 - j)))[e.sig.toNat]? = some e.sigid.toNat)

/-- R212, R215, R216: where each body field of a decoded record is read, with the default constants, compact variant.
That the satellite blocks are there with `NSIG = 0` is log entry 24. -/
def Obligations.MsmCompactBodyFields : Prop :=
  ∀ (s : State) (sys : BitVec 4) (z : BitVec 3) (p l : Word) (g : GnssSys),
    s.cfg.msm = msmStandard → MsmDecodes s sys z 0 p l g →
    ∃ (t : State) (n k q r : Nat), exec (.msmdec sys z 0 p l) s = .next t ∧
      n = t.msm.hdr.nsat.toNat ∧ k = t.msm.hdr.ncell.toNat ∧
      q = 8 * p.toNat + 169 + n * t.msm.hdr.nsig.toNat ∧ r = q + 18 * n ∧
      (∀ i e, t.msm.sats[i]? = some e →
        e.int.toNat = getU s.buf (q + 8 * i) 8 ∧ e.frac.toNat = getU s.buf (q + 8 * n + 10 * i) 10 ∧
        e.ext = 0 ∧ e.rr = 0 ∧ e.rrv = false) ∧
      (∀ j e, t.msm.cells[j]? = some e →
        e.fpr.toInt = getS s.buf (r + 15 * j) 15 ∧ e.fcp.toInt = getS s.buf (r + 15 * k + 22 * j) 22 ∧
        e.lock.toNat = getU s.buf (r + 37 * k + 4 * j) 4 ∧ e.half.toNat = getU s.buf (r + 41 * k + j) 1 ∧
        e.cnr.toNat = getU s.buf (r + 42 * k + 6 * j) 6 ∧ e.frr = 0)

/-- R212, R215, R216: the same, extended variant (with `NSIG = 0`, log entry 24 again). -/
def Obligations.MsmExtendedBodyFields : Prop :=
  ∀ (s : State) (sys : BitVec 4) (z : BitVec 3) (p l : Word) (g : GnssSys),
    s.cfg.msm = msmStandard → MsmDecodes s sys z 1 p l g →
    ∃ (t : State) (n k q r : Nat), exec (.msmdec sys z 1 p l) s = .next t ∧
      n = t.msm.hdr.nsat.toNat ∧ k = t.msm.hdr.ncell.toNat ∧
      q = 8 * p.toNat + 169 + n * t.msm.hdr.nsig.toNat ∧ r = q + 36 * n ∧
      (∀ i e, t.msm.sats[i]? = some e →
        e.int.toNat = getU s.buf (q + 8 * i) 8 ∧ e.ext.toNat = getU s.buf (q + 8 * n + 4 * i) 4 ∧
        e.frac.toNat = getU s.buf (q + 12 * n + 10 * i) 10 ∧ e.rr.toInt = getS s.buf (q + 22 * n + 14 * i) 14 ∧
        e.rrv = decide (e.rr.toInt ≠ -8192)) ∧
      (∀ j e, t.msm.cells[j]? = some e →
        e.fpr.toInt = getS s.buf (r + 20 * j) 20 ∧ e.fcp.toInt = getS s.buf (r + 20 * k + 24 * j) 24 ∧
        e.lock.toNat = getU s.buf (r + 44 * k + 10 * j) 10 ∧ e.half.toNat = getU s.buf (r + 54 * k + j) 1 ∧
        e.cnr.toNat = getU s.buf (r + 55 * k + 10 * j) 10 ∧ e.frr.toInt = getS s.buf (r + 65 * k + 15 * j) 15)

/-- R214, R217, R224 to R227: reconstruction and sentinel propagation, with the default constants. -/
def Obligations.MsmReconstruction : Prop :=
  ∀ (s : State) (sys : BitVec 4) (z : BitVec 3) (x : BitVec 1) (p l : Word) (g : GnssSys),
    s.cfg.msm = msmStandard → MsmDecodes s sys z x p l g →
    ∃ t, exec (.msmdec sys z x p l) s = .next t ∧
      (∀ e ∈ t.msm.sats, e.roughq.toNat = if e.int = 255 then 0 else e.int.toNat * 1024 + e.frac.toNat) ∧
      (∀ e ∈ t.msm.cells, ∃ a, t.msm.sats[e.sat.toNat]? = some a ∧
        e.prv = (decide (a.roughq ≠ 0) && decide (e.fpr.toInt ≠ if x = 1 then -2 ^ 19 else -2 ^ 14)) ∧
        e.prq.toInt = (if e.prv then (a.roughq.toNat : Int) * 2 ^ 21 + e.fpr.toInt * (if x = 1 then 4 else 128) else 0) ∧
        e.cpv = (decide (a.roughq ≠ 0) && decide (e.fcp.toInt ≠ if x = 1 then -2 ^ 23 else -2 ^ 21)) ∧
        e.cpq.toInt = (if e.cpv then (a.roughq.toNat : Int) * 2 ^ 21 + e.fcp.toInt * (if x = 1 then 1 else 4) else 0) ∧
        e.rrv = (decide (x = 1) && a.rrv && decide (e.frr.toInt ≠ -16384)) ∧
        e.rrq.toInt = (if e.rrv then a.rr.toInt * 10000 + e.frr.toInt else 0) ∧
        e.cnrq.toNat = e.cnr.toNat * (if x = 1 then 1 else 16))

/-- R231: when `MSMRD` is refused, and the element each selector delivers. -/
def Obligations.MsmrdReadsTheResultFile : Prop :=
  (∀ (s : State) (sel : BitVec 8) (idx : BitVec 16),
    (s.mvalid = false ∨
      (0x14 ≤ sel.toNat ∧ sel.toNat ≤ 0x1F) ∨ (0x28 ≤ sel.toNat ∧ sel.toNat ≤ 0x3F) ∨ sel = 0x4D ∨ sel = 0x4E ∨
      0x50 ≤ sel.toNat ∨
      (0x20 ≤ sel.toNat ∧ sel.toNat ≤ 0x27 ∧ s.msm.hdr.nsat.toNat ≤ idx.toNat) ∨
      (0x40 ≤ sel.toNat ∧ sel.toNat ≤ 0x4F ∧ s.msm.hdr.ncell.toNat ≤ idx.toNat)) →
    exec (.msmrd sel idx) s = .next { s with ill := true }) ∧
  ∀ (s : State) (idx : BitVec 16), s.mvalid = true →
    (∀ e ∈ [(0x00#8, s.msm.hdr.msgnum.setWidth 32), (0x01#8, s.msm.hdr.station.setWidth 32),
        (0x02#8, s.msm.hdr.epoch.setWidth 32), (0x03#8, s.msm.hdr.dow.setWidth 32),
        (0x04#8, s.msm.hdr.multi.setWidth 32), (0x05#8, s.msm.hdr.iods.setWidth 32),
        (0x06#8, s.msm.hdr.session.setWidth 32), (0x07#8, s.msm.hdr.clksteer.setWidth 32),
        (0x08#8, s.msm.hdr.extclk.setWidth 32), (0x09#8, s.msm.hdr.smooth.setWidth 32),
        (0x0A#8, s.msm.hdr.smint.setWidth 32), (0x0C#8, s.msm.hdr.sigmask), (0x0E#8, s.msm.hdr.nsat.setWidth 32),
        (0x0F#8, s.msm.hdr.nsig.setWidth 32), (0x10#8, s.msm.hdr.ncell.setWidth 32),
        (0x11#8, s.msm.hdr.bits.setWidth 32), (0x12#8, (gnssCode s.msm.hdr.sys).setWidth 32),
        (0x13#8, (variantCode s.msm.hdr.var).setWidth 32)],
      exec (.msmrd e.1 idx) s = .next { s with res0 := e.2 }) ∧
    (∀ e ∈ [(0x0B#8, s.msm.hdr.satmask), (0x0D#8, s.msm.hdr.cellmask)],
      exec (.msmrd e.1 idx) s = .next { s with res0 := e.2.extractLsb' 0 32, res1 := e.2.extractLsb' 32 32 }) ∧
    (∀ a, idx.toNat < s.msm.hdr.nsat.toNat → s.msm.sats[idx.toNat]? = some a →
      ∀ e ∈ [(0x20#8, a.id.setWidth 32), (0x21#8, a.prn.setWidth 32), (0x22#8, a.roughq.setWidth 32),
          (0x23#8, a.ext.setWidth 32), (0x24#8, a.rr.signExtend 32), (0x25#8, a.int.setWidth 32),
          (0x26#8, a.frac.setWidth 32), (0x27#8, (BitVec.ofBool a.rrv).setWidth 32)],
        exec (.msmrd e.1 idx) s = .next { s with res0 := e.2 }) ∧
    (∀ c, idx.toNat < s.msm.hdr.ncell.toNat → s.msm.cells[idx.toNat]? = some c →
      (∀ e ∈ [(0x40#8, c.sat.setWidth 32), (0x41#8, c.sig.setWidth 32), (0x44#8, c.rrq), (0x45#8, c.lock.setWidth 32),
          (0x46#8, c.cnrq.setWidth 32), (0x47#8, c.fpr.signExtend 32), (0x48#8, c.fcp.signExtend 32),
          (0x49#8, c.frr.signExtend 32), (0x4A#8, c.cnr.setWidth 32), (0x4B#8, c.sigid.setWidth 32),
          (0x4C#8, c.half.setWidth 32),
          (0x4F#8, BitVec.ofNat 32 (c.prv.toNat + 2 * c.cpv.toNat + 4 * c.rrv.toNat + 8 * c.half.toNat))],
        exec (.msmrd e.1 idx) s = .next { s with res0 := e.2 }) ∧
      (∀ e ∈ [(0x42#8, c.prq), (0x43#8, c.cpq)],
        exec (.msmrd e.1 idx) s = .next { s with res0 := e.2.extractLsb' 0 32, res1 := e.2.extractLsb' 32 32 }))

/-! ### Whole-machine rules -/

/-- R21, R23, R24, R26, R28, R32, R141: which commands can change which state. -/
def Obligations.OnlyTheirCommandsWriteTheState : Prop :=
  ∀ (i : Instr) (s t : State), exec i s = .next t →
    t.cfg = s.cfg ∧ t.port = s.port ∧
    (isPush i = false → i ≠ .reset →
      t.phase = s.phase ∧ t.cnt = s.cnt ∧ t.hlen = s.hlen ∧ t.plen = s.plen ∧ t.star = s.star ∧ t.word = s.word ∧
      t.nbit = s.nbit ∧ t.done = s.done) ∧
    (isPush i = false →
      t.frLen = s.frLen ∧ t.frPayoff = s.frPayoff ∧ t.frPaylen = s.frPaylen ∧ t.frId = s.frId ∧
      t.frIdoff = s.frIdoff ∧ t.frIdlen = s.frIdlen) ∧
    (writesBuf i = false → t.buf = s.buf) ∧
    (movesCursor i = false → t.bitoff = s.bitoff) ∧
    (verifies i = false → t.vok = s.vok) ∧
    (isMsmdec i = false → t.msm = s.msm ∧ t.mvalid = s.mvalid) ∧
    (isPush i = false → isMsmdec i = false → t.events = s.events) ∧
    (isPush i = false → isMsmdec i = false → i ≠ .reset → t.lastErr = s.lastErr) ∧
    (writesRes1 i = false → t.res1 = s.res1) ∧
    (leavesRes0 i = true → t.res0 = s.res0)

/-- R254, R252: a command appends at most one record to the event output and never rewrites it. -/
def Obligations.AtMostOneEventPerCommand : Prop :=
  ∀ (i : Instr) (s t : State), exec i s = .next t →
    t.events = s.events ∨
    (∃ e, t.events = s.events ++ [e] ∧
      ((isPush i = true ∧ ∃ id bs o l, e = .frame (protoId s.cfg.proto) id bs o l) ∨
       (isPush i = true ∧ ∃ k id, (k = .size ∨ k = .checksum) ∧ e = .err k (protoId s.cfg.proto) id) ∨
       (isMsmdec i = true ∧ e = .msg (protoId s.cfg.proto) t.msm.hdr.msgnum t.msm) ∨
       (isMsmdec i = true ∧ ∃ k id, (k = .decode ∨ k = .trailing) ∧ e = .err k (protoId s.cfg.proto) id)))

/-- R286: read-only commands leave `FVALID`, the frame registers and the whole buffer; the buffer writers and `PUSH`
clear `FVALID` unless they are refused or complete a frame. -/
def Obligations.FrameLivesUntilTheNextBufferWrite : Prop :=
  ∀ (i : Instr) (s t : State), exec i s = .next t →
    (readsOnly i = true →
      t.fvalid = s.fvalid ∧ t.frLen = s.frLen ∧ t.frPayoff = s.frPayoff ∧ t.frPaylen = s.frPaylen ∧
      t.frId = s.frId ∧ t.frIdoff = s.frIdoff ∧ t.frIdlen = s.frIdlen ∧ ∀ a, Memory.byteAt t.buf a = Memory.byteAt s.buf a) ∧
    (readsOnly i = false → isPush i = false → t.fvalid = false ∨ t = { s with ill := true }) ∧
    (isPush i = true → t.fvalid = t.done ∨ t = { s with ill := true })

/-- R30: every step keeps the buffer in canonical form, in every state. -/
def Obligations.EveryStepKeepsTheBufferCanonical : Prop :=
  ∀ s t : State, Memory.wf s.buf → step s = .next t → Memory.wf t.buf

/-- R27, R34, R58, R155, R156, R160, R251: every step keeps the invariant of Safety.lean, from every state that has it. -/
def Obligations.EveryStepKeepsTheInvariant : Prop :=
  ∀ s t : State, StateInv s → step s = .next t → StateInv t

/-- R37: hardware reset of a well-formed instance has the invariant, that of State.reset among them. -/
def Obligations.ResetHasTheInvariant : Prop :=
  (∀ c : Cfg, cfgWf c = true → StateInv (State.resetWith c)) ∧ StateInv State.reset
end

