-- ==== Sys2Proof/Laws/Memory.lean ====
section
/-! SUPPORT. What the operations over `BUF` do: bytes, the canonical form, bits, and the bit-field functions as bits. -/

namespace Sys2Proof.Machine

/-! ### Bytes -/

theorem find_set (m : Memory) (a b : Nat) (x : Byte) :
    Memory.find (Memory.set m a x) b = if b = a then some x else Memory.find m b := by
  induction m with
  | nil =>
    simp only [Memory.set, Memory.find, eq_comm (a := b)]
  | cons e r ih =>
    obtain ⟨k, y⟩ := e
    simp only [Memory.set]
    split_ifs with h1 h2 h3 h3 h3 <;> simp_all [Memory.find] <;> grind

@[simp] theorem byteAt_set_same (m : Memory) (a : Nat) (x : Byte) : Memory.byteAt (Memory.set m a x) a = x := by
  simp [Memory.byteAt, find_set]

theorem byteAt_set_other (m : Memory) {a b : Nat} (x : Byte) (h : b ≠ a) :
    Memory.byteAt (Memory.set m a x) b = Memory.byteAt m b := by
  simp [Memory.byteAt, find_set, h]

theorem byteAt_set (m : Memory) (a b : Nat) (x : Byte) :
    Memory.byteAt (Memory.set m a x) b = if b = a then x else Memory.byteAt m b := by
  split_ifs with h
  · simp [h]
  · exact byteAt_set_other m x h

theorem memWrite_other (m : Memory) (a b : Nat) (bs : List Byte) (h : b < a ∨ a + bs.length ≤ b) :
    Memory.byteAt (memWrite m a bs) b = Memory.byteAt m b := by
  induction bs generalizing m a with
  | nil => rfl
  | cons x xs ih =>
    simp only [List.length_cons] at h
    rw [memWrite, ih _ _ (by omega), byteAt_set_other _ _ (by omega)]

/-! ### The canonical form -/

theorem mem_set {m : Memory} {a : Nat} {x : Byte} {e : Host.Cell} (h : e ∈ Memory.set m a x) :
    e = (a, x) ∨ e ∈ m := by
  induction m with
  | nil => simpa [Memory.set] using h
  | cons d r ih =>
    obtain ⟨k, y⟩ := d
    simp only [Memory.set] at h
    split_ifs at h <;> simp_all <;> tauto

/-- `Memory.set` keeps the canonical form. -/
theorem set_wf {m : Memory} (a : Nat) (x : Byte) (h : Memory.wf m) : Memory.wf (Memory.set m a x) := by
  induction m with
  | nil => simp [Memory.set, Memory.wf]
  | cons d r ih =>
    obtain ⟨k, y⟩ := d
    have hr : Memory.wf r := (List.pairwise_cons.1 h).2
    have hk : ∀ e ∈ r, k < e.1 := (List.pairwise_cons.1 h).1
    simp only [Memory.set]
    split_ifs with h1 h2
    · refine List.pairwise_cons.2 ⟨?_, h⟩
      intro e he
      rcases List.mem_cons.1 he with rfl | he
      · exact h1
      · exact h1.trans (hk e he)
    · subst h2
      exact List.pairwise_cons.2 ⟨hk, hr⟩
    · refine List.pairwise_cons.2 ⟨?_, ih hr⟩
      intro e he
      rcases mem_set he with rfl | he
      · show k < a; omega
      · exact hk e he

theorem memWrite_wf {m : Memory} (a : Nat) (bs : List Byte) (h : Memory.wf m) : Memory.wf (memWrite m a bs) := by
  induction bs generalizing m a with
  | nil => exact h
  | cons x xs ih => exact ih _ (set_wf a x h)

theorem setBitAt_wf {m : Memory} (p : Nat) (v : Bool) (h : Memory.wf m) : Memory.wf (setBitAt m p v) := set_wf _ _ h

theorem putU_wf {m : Memory} (p w v : Nat) (h : Memory.wf m) : Memory.wf (putU m p w v) := by
  induction w generalizing v with
  | zero => exact h
  | succ w ih => exact setBitAt_wf _ _ (ih _)

/-- Every index of a buffer after a write is an old one or one written. -/
theorem memWrite_index {m : Memory} {a : Nat} {bs : List Byte} {e : Host.Cell} (h : e ∈ memWrite m a bs) :
    e ∈ m ∨ (a ≤ e.1 ∧ e.1 < a + bs.length) := by
  induction bs generalizing m a with
  | nil => exact .inl h
  | cons x xs ih =>
    simp only [List.length_cons]
    rcases ih h with h | h
    · rcases mem_set h with rfl | h
      · exact .inr ⟨le_refl _, by show a < _; omega⟩
      · exact .inl h
    · exact .inr (by omega)

theorem putU_index {m : Memory} {p w v : Nat} {e : Host.Cell} (h : e ∈ putU m p w v) :
    e ∈ m ∨ (p / 8 ≤ e.1 ∧ 8 * e.1 < p + w) := by
  induction w generalizing v e with
  | zero => exact .inl h
  | succ w ih =>
    rcases mem_set h with rfl | h
    · refine .inr ⟨?_, ?_⟩
      · show p / 8 ≤ (p + w) / 8; omega
      · show 8 * ((p + w) / 8) < p + (w + 1); omega
    · rcases ih h with h | h
      · exact .inl h
      · exact .inr (by omega)

/-! ### Bits -/

theorem setByteBit_get (x : Byte) (i j : Nat) (v : Bool) (hi : i < 8) (hj : j < 8) :
    (setByteBit x i v).getLsbD j = if j = i then v else x.getLsbD j := by
  have hone : (1#8 <<< i).getLsbD j = decide (j = i) := by
    rw [BitVec.getLsbD_shiftLeft, BitVec.getLsbD_one]
    by_cases h : j = i
    · simp [h, hi]
    · simp [h, hj]; omega
  cases v
  · rw [setByteBit, if_neg (by simp), BitVec.getLsbD_and, BitVec.getLsbD_not, hone]
    by_cases h : j = i <;> simp [h, hi, hj]
  · rw [setByteBit, if_pos rfl, BitVec.getLsbD_or, hone]
    by_cases h : j = i <;> simp [h]

theorem bitAt_setBitAt (m : Memory) (p q : Nat) (v : Bool) :
    bitAt (setBitAt m p v) q = if q = p then v else bitAt m q := by
  unfold bitAt setBitAt
  rw [byteAt_set]
  by_cases hb : q / 8 = p / 8
  · rw [if_pos hb, setByteBit_get _ _ _ _ (by omega) (by omega), hb]
    have : (7 - q % 8 = 7 - p % 8) ↔ q = p := by omega
    simp only [this]
  · rw [if_neg hb, if_neg (fun h => hb (by rw [h]))]

theorem bitAt_putU_outside (m : Memory) (p w v q : Nat) (h : q < p ∨ p + w ≤ q) :
    bitAt (putU m p w v) q = bitAt m q := by
  induction w generalizing v with
  | zero => rfl
  | succ w ih => rw [putU, bitAt_setBitAt, if_neg (by omega), ih _ (by omega)]

theorem bitAt_putU_inside (m : Memory) (p w v i : Nat) (h : i < w) :
    bitAt (putU m p w v) (p + i) = v.testBit (w - 1 - i) := by
  induction w generalizing v with
  | zero => omega
  | succ w ih =>
    rw [putU, bitAt_setBitAt]
    by_cases hi : i = w
    · subst hi; simp [Nat.testBit_zero]
    · rw [if_neg (by omega), ih _ (by omega), ← Nat.testBit_succ]
      congr 1; omega

theorem getU_lt (m : Memory) (p w : Nat) : getU m p w < 2 ^ w := by
  induction w with
  | zero => simp [getU]
  | succ w ih =>
    have := Bool.toNat_lt (bitAt m (p + w))
    rw [getU, pow_succ]; omega

/-- A field depends on its own bits only. -/
theorem getU_congr {m m' : Memory} {p w : Nat} (h : ∀ i < w, bitAt m' (p + i) = bitAt m (p + i)) :
    getU m' p w = getU m p w := by
  induction w with
  | zero => rfl
  | succ w ih => rw [getU, getU, ih fun i hi => h i (by omega), h w (by omega)]

/-! ### Bytes of a bit write -/

theorem byteAt_setBitAt_other (m : Memory) (p a : Nat) (v : Bool) (h : a ≠ p / 8) :
    Memory.byteAt (setBitAt m p v) a = Memory.byteAt m a := byteAt_set_other _ _ h

theorem byteAt_putU_outside (m : Memory) (p w v a : Nat) (h : a < p / 8 ∨ p + w ≤ 8 * a) :
    Memory.byteAt (putU m p w v) a = Memory.byteAt m a := by
  induction w generalizing v with
  | zero => rfl
  | succ w ih => rw [putU, byteAt_setBitAt_other _ _ _ _ (by omega), ih _ (by omega)]

end Sys2Proof.Machine
end

