-- ==== Sys2Proof/Laws/State.lean ====
section
/-! SUPPORT. One lemma per field per shared state update, true by rfl, so that no proof unfolds a record update. -/

namespace Sys2Proof.Machine

/-! ### `setRes0` -/

@[simp] theorem setRes0_cfg (v : Word) (s : State) : (setRes0 v s).cfg = s.cfg := rfl
@[simp] theorem setRes0_res0 (v : Word) (s : State) : (setRes0 v s).res0 = v := rfl
@[simp] theorem setRes0_res1 (v : Word) (s : State) : (setRes0 v s).res1 = s.res1 := rfl
@[simp] theorem setRes0_done (v : Word) (s : State) : (setRes0 v s).done = s.done := rfl
@[simp] theorem setRes0_fvalid (v : Word) (s : State) : (setRes0 v s).fvalid = s.fvalid := rfl
@[simp] theorem setRes0_vok (v : Word) (s : State) : (setRes0 v s).vok = s.vok := rfl
@[simp] theorem setRes0_mvalid (v : Word) (s : State) : (setRes0 v s).mvalid = s.mvalid := rfl
@[simp] theorem setRes0_ill (v : Word) (s : State) : (setRes0 v s).ill = s.ill := rfl
@[simp] theorem setRes0_lastErr (v : Word) (s : State) : (setRes0 v s).lastErr = s.lastErr := rfl
@[simp] theorem setRes0_bitoff (v : Word) (s : State) : (setRes0 v s).bitoff = s.bitoff := rfl
@[simp] theorem setRes0_phase (v : Word) (s : State) : (setRes0 v s).phase = s.phase := rfl
@[simp] theorem setRes0_cnt (v : Word) (s : State) : (setRes0 v s).cnt = s.cnt := rfl
@[simp] theorem setRes0_hlen (v : Word) (s : State) : (setRes0 v s).hlen = s.hlen := rfl
@[simp] theorem setRes0_plen (v : Word) (s : State) : (setRes0 v s).plen = s.plen := rfl
@[simp] theorem setRes0_star (v : Word) (s : State) : (setRes0 v s).star = s.star := rfl
@[simp] theorem setRes0_word (v : Word) (s : State) : (setRes0 v s).word = s.word := rfl
@[simp] theorem setRes0_nbit (v : Word) (s : State) : (setRes0 v s).nbit = s.nbit := rfl
@[simp] theorem setRes0_frLen (v : Word) (s : State) : (setRes0 v s).frLen = s.frLen := rfl
@[simp] theorem setRes0_frPayoff (v : Word) (s : State) : (setRes0 v s).frPayoff = s.frPayoff := rfl
@[simp] theorem setRes0_frPaylen (v : Word) (s : State) : (setRes0 v s).frPaylen = s.frPaylen := rfl
@[simp] theorem setRes0_frId (v : Word) (s : State) : (setRes0 v s).frId = s.frId := rfl
@[simp] theorem setRes0_frIdoff (v : Word) (s : State) : (setRes0 v s).frIdoff = s.frIdoff := rfl
@[simp] theorem setRes0_frIdlen (v : Word) (s : State) : (setRes0 v s).frIdlen = s.frIdlen := rfl
@[simp] theorem setRes0_buf (v : Word) (s : State) : (setRes0 v s).buf = s.buf := rfl
@[simp] theorem setRes0_msm (v : Word) (s : State) : (setRes0 v s).msm = s.msm := rfl
@[simp] theorem setRes0_events (v : Word) (s : State) : (setRes0 v s).events = s.events := rfl
@[simp] theorem setRes0_port (v : Word) (s : State) : (setRes0 v s).port = s.port := rfl
@[simp] theorem setRes0_freeCtr (v : Word) (s : State) : (setRes0 v s).freeCtr = s.freeCtr := rfl

/-! ### `advance` -/

@[simp] theorem advance_cfg (w : Nat) (s : State) : (advance w s).cfg = s.cfg := rfl
@[simp] theorem advance_res0 (w : Nat) (s : State) : (advance w s).res0 = s.res0 := rfl
@[simp] theorem advance_res1 (w : Nat) (s : State) : (advance w s).res1 = s.res1 := rfl
@[simp] theorem advance_done (w : Nat) (s : State) : (advance w s).done = s.done := rfl
@[simp] theorem advance_fvalid (w : Nat) (s : State) : (advance w s).fvalid = s.fvalid := rfl
@[simp] theorem advance_vok (w : Nat) (s : State) : (advance w s).vok = s.vok := rfl
@[simp] theorem advance_mvalid (w : Nat) (s : State) : (advance w s).mvalid = s.mvalid := rfl
@[simp] theorem advance_ill (w : Nat) (s : State) : (advance w s).ill = s.ill := rfl
@[simp] theorem advance_lastErr (w : Nat) (s : State) : (advance w s).lastErr = s.lastErr := rfl
@[simp] theorem advance_bitoff (w : Nat) (s : State) : (advance w s).bitoff = s.bitoff + BitVec.ofNat 32 w := rfl
@[simp] theorem advance_phase (w : Nat) (s : State) : (advance w s).phase = s.phase := rfl
@[simp] theorem advance_cnt (w : Nat) (s : State) : (advance w s).cnt = s.cnt := rfl
@[simp] theorem advance_hlen (w : Nat) (s : State) : (advance w s).hlen = s.hlen := rfl
@[simp] theorem advance_plen (w : Nat) (s : State) : (advance w s).plen = s.plen := rfl
@[simp] theorem advance_star (w : Nat) (s : State) : (advance w s).star = s.star := rfl
@[simp] theorem advance_word (w : Nat) (s : State) : (advance w s).word = s.word := rfl
@[simp] theorem advance_nbit (w : Nat) (s : State) : (advance w s).nbit = s.nbit := rfl
@[simp] theorem advance_frLen (w : Nat) (s : State) : (advance w s).frLen = s.frLen := rfl
@[simp] theorem advance_frPayoff (w : Nat) (s : State) : (advance w s).frPayoff = s.frPayoff := rfl
@[simp] theorem advance_frPaylen (w : Nat) (s : State) : (advance w s).frPaylen = s.frPaylen := rfl
@[simp] theorem advance_frId (w : Nat) (s : State) : (advance w s).frId = s.frId := rfl
@[simp] theorem advance_frIdoff (w : Nat) (s : State) : (advance w s).frIdoff = s.frIdoff := rfl
@[simp] theorem advance_frIdlen (w : Nat) (s : State) : (advance w s).frIdlen = s.frIdlen := rfl
@[simp] theorem advance_buf (w : Nat) (s : State) : (advance w s).buf = s.buf := rfl
@[simp] theorem advance_msm (w : Nat) (s : State) : (advance w s).msm = s.msm := rfl
@[simp] theorem advance_events (w : Nat) (s : State) : (advance w s).events = s.events := rfl
@[simp] theorem advance_port (w : Nat) (s : State) : (advance w s).port = s.port := rfl
@[simp] theorem advance_freeCtr (w : Nat) (s : State) : (advance w s).freeCtr = s.freeCtr := rfl

/-! ### `emit` -/

@[simp] theorem emit_cfg (e : Event) (s : State) : (emit e s).cfg = s.cfg := rfl
@[simp] theorem emit_res0 (e : Event) (s : State) : (emit e s).res0 = s.res0 := rfl
@[simp] theorem emit_res1 (e : Event) (s : State) : (emit e s).res1 = s.res1 := rfl
@[simp] theorem emit_done (e : Event) (s : State) : (emit e s).done = s.done := rfl
@[simp] theorem emit_fvalid (e : Event) (s : State) : (emit e s).fvalid = s.fvalid := rfl
@[simp] theorem emit_vok (e : Event) (s : State) : (emit e s).vok = s.vok := rfl
@[simp] theorem emit_mvalid (e : Event) (s : State) : (emit e s).mvalid = s.mvalid := rfl
@[simp] theorem emit_ill (e : Event) (s : State) : (emit e s).ill = s.ill := rfl
@[simp] theorem emit_lastErr (e : Event) (s : State) : (emit e s).lastErr = s.lastErr := rfl
@[simp] theorem emit_bitoff (e : Event) (s : State) : (emit e s).bitoff = s.bitoff := rfl
@[simp] theorem emit_phase (e : Event) (s : State) : (emit e s).phase = s.phase := rfl
@[simp] theorem emit_cnt (e : Event) (s : State) : (emit e s).cnt = s.cnt := rfl
@[simp] theorem emit_hlen (e : Event) (s : State) : (emit e s).hlen = s.hlen := rfl
@[simp] theorem emit_plen (e : Event) (s : State) : (emit e s).plen = s.plen := rfl
@[simp] theorem emit_star (e : Event) (s : State) : (emit e s).star = s.star := rfl
@[simp] theorem emit_word (e : Event) (s : State) : (emit e s).word = s.word := rfl
@[simp] theorem emit_nbit (e : Event) (s : State) : (emit e s).nbit = s.nbit := rfl
@[simp] theorem emit_frLen (e : Event) (s : State) : (emit e s).frLen = s.frLen := rfl
@[simp] theorem emit_frPayoff (e : Event) (s : State) : (emit e s).frPayoff = s.frPayoff := rfl
@[simp] theorem emit_frPaylen (e : Event) (s : State) : (emit e s).frPaylen = s.frPaylen := rfl
@[simp] theorem emit_frId (e : Event) (s : State) : (emit e s).frId = s.frId := rfl
@[simp] theorem emit_frIdoff (e : Event) (s : State) : (emit e s).frIdoff = s.frIdoff := rfl
@[simp] theorem emit_frIdlen (e : Event) (s : State) : (emit e s).frIdlen = s.frIdlen := rfl
@[simp] theorem emit_buf (e : Event) (s : State) : (emit e s).buf = s.buf := rfl
@[simp] theorem emit_msm (e : Event) (s : State) : (emit e s).msm = s.msm := rfl
@[simp] theorem emit_events (e : Event) (s : State) : (emit e s).events = s.events ++ [e] := rfl
@[simp] theorem emit_port (e : Event) (s : State) : (emit e s).port = s.port := rfl
@[simp] theorem emit_freeCtr (e : Event) (s : State) : (emit e s).freeCtr = s.freeCtr := rfl

/-! ### `raiseErr` -/

@[simp] theorem raiseErr_cfg (k : ErrKind) (id : Option Word) (s : State) : (raiseErr k id s).cfg = s.cfg := rfl
@[simp] theorem raiseErr_res0 (k : ErrKind) (id : Option Word) (s : State) : (raiseErr k id s).res0 = s.res0 := rfl
@[simp] theorem raiseErr_res1 (k : ErrKind) (id : Option Word) (s : State) : (raiseErr k id s).res1 = s.res1 := rfl
@[simp] theorem raiseErr_done (k : ErrKind) (id : Option Word) (s : State) : (raiseErr k id s).done = s.done := rfl
@[simp] theorem raiseErr_fvalid (k : ErrKind) (id : Option Word) (s : State) : (raiseErr k id s).fvalid = s.fvalid := rfl
@[simp] theorem raiseErr_vok (k : ErrKind) (id : Option Word) (s : State) : (raiseErr k id s).vok = s.vok := rfl
@[simp] theorem raiseErr_mvalid (k : ErrKind) (id : Option Word) (s : State) : (raiseErr k id s).mvalid = s.mvalid := rfl
@[simp] theorem raiseErr_ill (k : ErrKind) (id : Option Word) (s : State) : (raiseErr k id s).ill = s.ill := rfl
@[simp] theorem raiseErr_lastErr (k : ErrKind) (id : Option Word) (s : State) : (raiseErr k id s).lastErr = some k := rfl
@[simp] theorem raiseErr_bitoff (k : ErrKind) (id : Option Word) (s : State) : (raiseErr k id s).bitoff = s.bitoff := rfl
@[simp] theorem raiseErr_phase (k : ErrKind) (id : Option Word) (s : State) : (raiseErr k id s).phase = s.phase := rfl
@[simp] theorem raiseErr_cnt (k : ErrKind) (id : Option Word) (s : State) : (raiseErr k id s).cnt = s.cnt := rfl
@[simp] theorem raiseErr_hlen (k : ErrKind) (id : Option Word) (s : State) : (raiseErr k id s).hlen = s.hlen := rfl
@[simp] theorem raiseErr_plen (k : ErrKind) (id : Option Word) (s : State) : (raiseErr k id s).plen = s.plen := rfl
@[simp] theorem raiseErr_star (k : ErrKind) (id : Option Word) (s : State) : (raiseErr k id s).star = s.star := rfl
@[simp] theorem raiseErr_word (k : ErrKind) (id : Option Word) (s : State) : (raiseErr k id s).word = s.word := rfl
@[simp] theorem raiseErr_nbit (k : ErrKind) (id : Option Word) (s : State) : (raiseErr k id s).nbit = s.nbit := rfl
@[simp] theorem raiseErr_frLen (k : ErrKind) (id : Option Word) (s : State) : (raiseErr k id s).frLen = s.frLen := rfl
@[simp] theorem raiseErr_frPayoff (k : ErrKind) (id : Option Word) (s : State) : (raiseErr k id s).frPayoff = s.frPayoff := rfl
@[simp] theorem raiseErr_frPaylen (k : ErrKind) (id : Option Word) (s : State) : (raiseErr k id s).frPaylen = s.frPaylen := rfl
@[simp] theorem raiseErr_frId (k : ErrKind) (id : Option Word) (s : State) : (raiseErr k id s).frId = s.frId := rfl
@[simp] theorem raiseErr_frIdoff (k : ErrKind) (id : Option Word) (s : State) : (raiseErr k id s).frIdoff = s.frIdoff := rfl
@[simp] theorem raiseErr_frIdlen (k : ErrKind) (id : Option Word) (s : State) : (raiseErr k id s).frIdlen = s.frIdlen := rfl
@[simp] theorem raiseErr_buf (k : ErrKind) (id : Option Word) (s : State) : (raiseErr k id s).buf = s.buf := rfl
@[simp] theorem raiseErr_msm (k : ErrKind) (id : Option Word) (s : State) : (raiseErr k id s).msm = s.msm := rfl
@[simp] theorem raiseErr_events (k : ErrKind) (id : Option Word) (s : State) : (raiseErr k id s).events = s.events ++ [.err k (pidOf s) id] := rfl
@[simp] theorem raiseErr_port (k : ErrKind) (id : Option Word) (s : State) : (raiseErr k id s).port = s.port := rfl
@[simp] theorem raiseErr_freeCtr (k : ErrKind) (id : Option Word) (s : State) : (raiseErr k id s).freeCtr = s.freeCtr := rfl

/-! ### `toSync` -/

@[simp] theorem toSync_cfg (s : State) : (toSync s).cfg = s.cfg := rfl
@[simp] theorem toSync_res0 (s : State) : (toSync s).res0 = s.res0 := rfl
@[simp] theorem toSync_res1 (s : State) : (toSync s).res1 = s.res1 := rfl
@[simp] theorem toSync_done (s : State) : (toSync s).done = s.done := rfl
@[simp] theorem toSync_fvalid (s : State) : (toSync s).fvalid = s.fvalid := rfl
@[simp] theorem toSync_vok (s : State) : (toSync s).vok = s.vok := rfl
@[simp] theorem toSync_mvalid (s : State) : (toSync s).mvalid = s.mvalid := rfl
@[simp] theorem toSync_ill (s : State) : (toSync s).ill = s.ill := rfl
@[simp] theorem toSync_lastErr (s : State) : (toSync s).lastErr = s.lastErr := rfl
@[simp] theorem toSync_bitoff (s : State) : (toSync s).bitoff = s.bitoff := rfl
@[simp] theorem toSync_phase (s : State) : (toSync s).phase = .sync := rfl
@[simp] theorem toSync_cnt (s : State) : (toSync s).cnt = 0 := rfl
@[simp] theorem toSync_hlen (s : State) : (toSync s).hlen = s.hlen := rfl
@[simp] theorem toSync_plen (s : State) : (toSync s).plen = s.plen := rfl
@[simp] theorem toSync_star (s : State) : (toSync s).star = s.star := rfl
@[simp] theorem toSync_word (s : State) : (toSync s).word = s.word := rfl
@[simp] theorem toSync_nbit (s : State) : (toSync s).nbit = s.nbit := rfl
@[simp] theorem toSync_frLen (s : State) : (toSync s).frLen = s.frLen := rfl
@[simp] theorem toSync_frPayoff (s : State) : (toSync s).frPayoff = s.frPayoff := rfl
@[simp] theorem toSync_frPaylen (s : State) : (toSync s).frPaylen = s.frPaylen := rfl
@[simp] theorem toSync_frId (s : State) : (toSync s).frId = s.frId := rfl
@[simp] theorem toSync_frIdoff (s : State) : (toSync s).frIdoff = s.frIdoff := rfl
@[simp] theorem toSync_frIdlen (s : State) : (toSync s).frIdlen = s.frIdlen := rfl
@[simp] theorem toSync_buf (s : State) : (toSync s).buf = s.buf := rfl
@[simp] theorem toSync_msm (s : State) : (toSync s).msm = s.msm := rfl
@[simp] theorem toSync_events (s : State) : (toSync s).events = s.events := rfl
@[simp] theorem toSync_port (s : State) : (toSync s).port = s.port := rfl
@[simp] theorem toSync_freeCtr (s : State) : (toSync s).freeCtr = s.freeCtr := rfl

/-! ### `clearFvalid` -/

@[simp] theorem clearFvalid_cfg (s : State) : (clearFvalid s).cfg = s.cfg := rfl
@[simp] theorem clearFvalid_res0 (s : State) : (clearFvalid s).res0 = s.res0 := rfl
@[simp] theorem clearFvalid_res1 (s : State) : (clearFvalid s).res1 = s.res1 := rfl
@[simp] theorem clearFvalid_done (s : State) : (clearFvalid s).done = s.done := rfl
@[simp] theorem clearFvalid_fvalid (s : State) : (clearFvalid s).fvalid = false := rfl
@[simp] theorem clearFvalid_vok (s : State) : (clearFvalid s).vok = s.vok := rfl
@[simp] theorem clearFvalid_mvalid (s : State) : (clearFvalid s).mvalid = s.mvalid := rfl
@[simp] theorem clearFvalid_ill (s : State) : (clearFvalid s).ill = s.ill := rfl
@[simp] theorem clearFvalid_lastErr (s : State) : (clearFvalid s).lastErr = s.lastErr := rfl
@[simp] theorem clearFvalid_bitoff (s : State) : (clearFvalid s).bitoff = s.bitoff := rfl
@[simp] theorem clearFvalid_phase (s : State) : (clearFvalid s).phase = s.phase := rfl
@[simp] theorem clearFvalid_cnt (s : State) : (clearFvalid s).cnt = s.cnt := rfl
@[simp] theorem clearFvalid_hlen (s : State) : (clearFvalid s).hlen = s.hlen := rfl
@[simp] theorem clearFvalid_plen (s : State) : (clearFvalid s).plen = s.plen := rfl
@[simp] theorem clearFvalid_star (s : State) : (clearFvalid s).star = s.star := rfl
@[simp] theorem clearFvalid_word (s : State) : (clearFvalid s).word = s.word := rfl
@[simp] theorem clearFvalid_nbit (s : State) : (clearFvalid s).nbit = s.nbit := rfl
@[simp] theorem clearFvalid_frLen (s : State) : (clearFvalid s).frLen = s.frLen := rfl
@[simp] theorem clearFvalid_frPayoff (s : State) : (clearFvalid s).frPayoff = s.frPayoff := rfl
@[simp] theorem clearFvalid_frPaylen (s : State) : (clearFvalid s).frPaylen = s.frPaylen := rfl
@[simp] theorem clearFvalid_frId (s : State) : (clearFvalid s).frId = s.frId := rfl
@[simp] theorem clearFvalid_frIdoff (s : State) : (clearFvalid s).frIdoff = s.frIdoff := rfl
@[simp] theorem clearFvalid_frIdlen (s : State) : (clearFvalid s).frIdlen = s.frIdlen := rfl
@[simp] theorem clearFvalid_buf (s : State) : (clearFvalid s).buf = s.buf := rfl
@[simp] theorem clearFvalid_msm (s : State) : (clearFvalid s).msm = s.msm := rfl
@[simp] theorem clearFvalid_events (s : State) : (clearFvalid s).events = s.events := rfl
@[simp] theorem clearFvalid_port (s : State) : (clearFvalid s).port = s.port := rfl
@[simp] theorem clearFvalid_freeCtr (s : State) : (clearFvalid s).freeCtr = s.freeCtr := rfl

/-! ### `clearPushFlags` -/

@[simp] theorem clearPushFlags_cfg (s : State) : (clearPushFlags s).cfg = s.cfg := rfl
@[simp] theorem clearPushFlags_res0 (s : State) : (clearPushFlags s).res0 = s.res0 := rfl
@[simp] theorem clearPushFlags_res1 (s : State) : (clearPushFlags s).res1 = s.res1 := rfl
@[simp] theorem clearPushFlags_done (s : State) : (clearPushFlags s).done = false := rfl
@[simp] theorem clearPushFlags_fvalid (s : State) : (clearPushFlags s).fvalid = false := rfl
@[simp] theorem clearPushFlags_vok (s : State) : (clearPushFlags s).vok = s.vok := rfl
@[simp] theorem clearPushFlags_mvalid (s : State) : (clearPushFlags s).mvalid = s.mvalid := rfl
@[simp] theorem clearPushFlags_ill (s : State) : (clearPushFlags s).ill = s.ill := rfl
@[simp] theorem clearPushFlags_lastErr (s : State) : (clearPushFlags s).lastErr = none := rfl
@[simp] theorem clearPushFlags_bitoff (s : State) : (clearPushFlags s).bitoff = s.bitoff := rfl
@[simp] theorem clearPushFlags_phase (s : State) : (clearPushFlags s).phase = s.phase := rfl
@[simp] theorem clearPushFlags_cnt (s : State) : (clearPushFlags s).cnt = s.cnt := rfl
@[simp] theorem clearPushFlags_hlen (s : State) : (clearPushFlags s).hlen = s.hlen := rfl
@[simp] theorem clearPushFlags_plen (s : State) : (clearPushFlags s).plen = s.plen := rfl
@[simp] theorem clearPushFlags_star (s : State) : (clearPushFlags s).star = s.star := rfl
@[simp] theorem clearPushFlags_word (s : State) : (clearPushFlags s).word = s.word := rfl
@[simp] theorem clearPushFlags_nbit (s : State) : (clearPushFlags s).nbit = s.nbit := rfl
@[simp] theorem clearPushFlags_frLen (s : State) : (clearPushFlags s).frLen = s.frLen := rfl
@[simp] theorem clearPushFlags_frPayoff (s : State) : (clearPushFlags s).frPayoff = s.frPayoff := rfl
@[simp] theorem clearPushFlags_frPaylen (s : State) : (clearPushFlags s).frPaylen = s.frPaylen := rfl
@[simp] theorem clearPushFlags_frId (s : State) : (clearPushFlags s).frId = s.frId := rfl
@[simp] theorem clearPushFlags_frIdoff (s : State) : (clearPushFlags s).frIdoff = s.frIdoff := rfl
@[simp] theorem clearPushFlags_frIdlen (s : State) : (clearPushFlags s).frIdlen = s.frIdlen := rfl
@[simp] theorem clearPushFlags_buf (s : State) : (clearPushFlags s).buf = s.buf := rfl
@[simp] theorem clearPushFlags_msm (s : State) : (clearPushFlags s).msm = s.msm := rfl
@[simp] theorem clearPushFlags_events (s : State) : (clearPushFlags s).events = s.events := rfl
@[simp] theorem clearPushFlags_port (s : State) : (clearPushFlags s).port = s.port := rfl
@[simp] theorem clearPushFlags_freeCtr (s : State) : (clearPushFlags s).freeCtr = s.freeCtr := rfl

/-! ### `setVerify` -/

@[simp] theorem setVerify_cfg (ok : Bool) (s : State) : (setVerify ok s).cfg = s.cfg := rfl
@[simp] theorem setVerify_res0 (ok : Bool) (s : State) : (setVerify ok s).res0 = if ok then 1 else 0 := rfl
@[simp] theorem setVerify_res1 (ok : Bool) (s : State) : (setVerify ok s).res1 = s.res1 := rfl
@[simp] theorem setVerify_done (ok : Bool) (s : State) : (setVerify ok s).done = s.done := rfl
@[simp] theorem setVerify_fvalid (ok : Bool) (s : State) : (setVerify ok s).fvalid = s.fvalid := rfl
@[simp] theorem setVerify_vok (ok : Bool) (s : State) : (setVerify ok s).vok = ok := rfl
@[simp] theorem setVerify_mvalid (ok : Bool) (s : State) : (setVerify ok s).mvalid = s.mvalid := rfl
@[simp] theorem setVerify_ill (ok : Bool) (s : State) : (setVerify ok s).ill = s.ill := rfl
@[simp] theorem setVerify_lastErr (ok : Bool) (s : State) : (setVerify ok s).lastErr = s.lastErr := rfl
@[simp] theorem setVerify_bitoff (ok : Bool) (s : State) : (setVerify ok s).bitoff = s.bitoff := rfl
@[simp] theorem setVerify_phase (ok : Bool) (s : State) : (setVerify ok s).phase = s.phase := rfl
@[simp] theorem setVerify_cnt (ok : Bool) (s : State) : (setVerify ok s).cnt = s.cnt := rfl
@[simp] theorem setVerify_hlen (ok : Bool) (s : State) : (setVerify ok s).hlen = s.hlen := rfl
@[simp] theorem setVerify_plen (ok : Bool) (s : State) : (setVerify ok s).plen = s.plen := rfl
@[simp] theorem setVerify_star (ok : Bool) (s : State) : (setVerify ok s).star = s.star := rfl
@[simp] theorem setVerify_word (ok : Bool) (s : State) : (setVerify ok s).word = s.word := rfl
@[simp] theorem setVerify_nbit (ok : Bool) (s : State) : (setVerify ok s).nbit = s.nbit := rfl
@[simp] theorem setVerify_frLen (ok : Bool) (s : State) : (setVerify ok s).frLen = s.frLen := rfl
@[simp] theorem setVerify_frPayoff (ok : Bool) (s : State) : (setVerify ok s).frPayoff = s.frPayoff := rfl
@[simp] theorem setVerify_frPaylen (ok : Bool) (s : State) : (setVerify ok s).frPaylen = s.frPaylen := rfl
@[simp] theorem setVerify_frId (ok : Bool) (s : State) : (setVerify ok s).frId = s.frId := rfl
@[simp] theorem setVerify_frIdoff (ok : Bool) (s : State) : (setVerify ok s).frIdoff = s.frIdoff := rfl
@[simp] theorem setVerify_frIdlen (ok : Bool) (s : State) : (setVerify ok s).frIdlen = s.frIdlen := rfl
@[simp] theorem setVerify_buf (ok : Bool) (s : State) : (setVerify ok s).buf = s.buf := rfl
@[simp] theorem setVerify_msm (ok : Bool) (s : State) : (setVerify ok s).msm = s.msm := rfl
@[simp] theorem setVerify_events (ok : Bool) (s : State) : (setVerify ok s).events = s.events := rfl
@[simp] theorem setVerify_port (ok : Bool) (s : State) : (setVerify ok s).port = s.port := rfl
@[simp] theorem setVerify_freeCtr (ok : Bool) (s : State) : (setVerify ok s).freeCtr = s.freeCtr := rfl

/-! ### `takeByte` -/

@[simp] theorem takeByte_cfg (b : Byte) (s : State) : (takeByte b s).cfg = s.cfg := rfl
@[simp] theorem takeByte_res0 (b : Byte) (s : State) : (takeByte b s).res0 = s.res0 := rfl
@[simp] theorem takeByte_res1 (b : Byte) (s : State) : (takeByte b s).res1 = s.res1 := rfl
@[simp] theorem takeByte_done (b : Byte) (s : State) : (takeByte b s).done = s.done := rfl
@[simp] theorem takeByte_fvalid (b : Byte) (s : State) : (takeByte b s).fvalid = s.fvalid := rfl
@[simp] theorem takeByte_vok (b : Byte) (s : State) : (takeByte b s).vok = s.vok := rfl
@[simp] theorem takeByte_mvalid (b : Byte) (s : State) : (takeByte b s).mvalid = s.mvalid := rfl
@[simp] theorem takeByte_ill (b : Byte) (s : State) : (takeByte b s).ill = s.ill := rfl
@[simp] theorem takeByte_lastErr (b : Byte) (s : State) : (takeByte b s).lastErr = s.lastErr := rfl
@[simp] theorem takeByte_bitoff (b : Byte) (s : State) : (takeByte b s).bitoff = s.bitoff := rfl
@[simp] theorem takeByte_phase (b : Byte) (s : State) : (takeByte b s).phase = s.phase := rfl
@[simp] theorem takeByte_cnt (b : Byte) (s : State) : (takeByte b s).cnt = s.cnt + 1 := rfl
@[simp] theorem takeByte_hlen (b : Byte) (s : State) : (takeByte b s).hlen = s.hlen := rfl
@[simp] theorem takeByte_plen (b : Byte) (s : State) : (takeByte b s).plen = s.plen := rfl
@[simp] theorem takeByte_star (b : Byte) (s : State) : (takeByte b s).star = s.star := rfl
@[simp] theorem takeByte_word (b : Byte) (s : State) : (takeByte b s).word = s.word := rfl
@[simp] theorem takeByte_nbit (b : Byte) (s : State) : (takeByte b s).nbit = s.nbit := rfl
@[simp] theorem takeByte_frLen (b : Byte) (s : State) : (takeByte b s).frLen = s.frLen := rfl
@[simp] theorem takeByte_frPayoff (b : Byte) (s : State) : (takeByte b s).frPayoff = s.frPayoff := rfl
@[simp] theorem takeByte_frPaylen (b : Byte) (s : State) : (takeByte b s).frPaylen = s.frPaylen := rfl
@[simp] theorem takeByte_frId (b : Byte) (s : State) : (takeByte b s).frId = s.frId := rfl
@[simp] theorem takeByte_frIdoff (b : Byte) (s : State) : (takeByte b s).frIdoff = s.frIdoff := rfl
@[simp] theorem takeByte_frIdlen (b : Byte) (s : State) : (takeByte b s).frIdlen = s.frIdlen := rfl
@[simp] theorem takeByte_buf (b : Byte) (s : State) : (takeByte b s).buf = Memory.set s.buf s.cnt.toNat b := rfl
@[simp] theorem takeByte_msm (b : Byte) (s : State) : (takeByte b s).msm = s.msm := rfl
@[simp] theorem takeByte_events (b : Byte) (s : State) : (takeByte b s).events = s.events := rfl
@[simp] theorem takeByte_port (b : Byte) (s : State) : (takeByte b s).port = s.port := rfl
@[simp] theorem takeByte_freeCtr (b : Byte) (s : State) : (takeByte b s).freeCtr = s.freeCtr := rfl

/-! ### `reportDone` -/

@[simp] theorem reportDone_cfg (s : State) : (reportDone s).cfg = s.cfg := rfl
@[simp] theorem reportDone_res0 (s : State) : (reportDone s).res0 = (BitVec.ofBool s.done).setWidth 32 := rfl
@[simp] theorem reportDone_res1 (s : State) : (reportDone s).res1 = s.res1 := rfl
@[simp] theorem reportDone_done (s : State) : (reportDone s).done = s.done := rfl
@[simp] theorem reportDone_fvalid (s : State) : (reportDone s).fvalid = s.fvalid := rfl
@[simp] theorem reportDone_vok (s : State) : (reportDone s).vok = s.vok := rfl
@[simp] theorem reportDone_mvalid (s : State) : (reportDone s).mvalid = s.mvalid := rfl
@[simp] theorem reportDone_ill (s : State) : (reportDone s).ill = s.ill := rfl
@[simp] theorem reportDone_lastErr (s : State) : (reportDone s).lastErr = s.lastErr := rfl
@[simp] theorem reportDone_bitoff (s : State) : (reportDone s).bitoff = s.bitoff := rfl
@[simp] theorem reportDone_phase (s : State) : (reportDone s).phase = s.phase := rfl
@[simp] theorem reportDone_cnt (s : State) : (reportDone s).cnt = s.cnt := rfl
@[simp] theorem reportDone_hlen (s : State) : (reportDone s).hlen = s.hlen := rfl
@[simp] theorem reportDone_plen (s : State) : (reportDone s).plen = s.plen := rfl
@[simp] theorem reportDone_star (s : State) : (reportDone s).star = s.star := rfl
@[simp] theorem reportDone_word (s : State) : (reportDone s).word = s.word := rfl
@[simp] theorem reportDone_nbit (s : State) : (reportDone s).nbit = s.nbit := rfl
@[simp] theorem reportDone_frLen (s : State) : (reportDone s).frLen = s.frLen := rfl
@[simp] theorem reportDone_frPayoff (s : State) : (reportDone s).frPayoff = s.frPayoff := rfl
@[simp] theorem reportDone_frPaylen (s : State) : (reportDone s).frPaylen = s.frPaylen := rfl
@[simp] theorem reportDone_frId (s : State) : (reportDone s).frId = s.frId := rfl
@[simp] theorem reportDone_frIdoff (s : State) : (reportDone s).frIdoff = s.frIdoff := rfl
@[simp] theorem reportDone_frIdlen (s : State) : (reportDone s).frIdlen = s.frIdlen := rfl
@[simp] theorem reportDone_buf (s : State) : (reportDone s).buf = s.buf := rfl
@[simp] theorem reportDone_msm (s : State) : (reportDone s).msm = s.msm := rfl
@[simp] theorem reportDone_events (s : State) : (reportDone s).events = s.events := rfl
@[simp] theorem reportDone_port (s : State) : (reportDone s).port = s.port := rfl
@[simp] theorem reportDone_freeCtr (s : State) : (reportDone s).freeCtr = s.freeCtr := rfl

/-! ### `textToSync` -/

@[simp] theorem textToSync_cfg (s : State) : (textToSync s).cfg = s.cfg := rfl
@[simp] theorem textToSync_res0 (s : State) : (textToSync s).res0 = s.res0 := rfl
@[simp] theorem textToSync_res1 (s : State) : (textToSync s).res1 = s.res1 := rfl
@[simp] theorem textToSync_done (s : State) : (textToSync s).done = s.done := rfl
@[simp] theorem textToSync_fvalid (s : State) : (textToSync s).fvalid = s.fvalid := rfl
@[simp] theorem textToSync_vok (s : State) : (textToSync s).vok = s.vok := rfl
@[simp] theorem textToSync_mvalid (s : State) : (textToSync s).mvalid = s.mvalid := rfl
@[simp] theorem textToSync_ill (s : State) : (textToSync s).ill = s.ill := rfl
@[simp] theorem textToSync_lastErr (s : State) : (textToSync s).lastErr = s.lastErr := rfl
@[simp] theorem textToSync_bitoff (s : State) : (textToSync s).bitoff = s.bitoff := rfl
@[simp] theorem textToSync_phase (s : State) : (textToSync s).phase = .sync := rfl
@[simp] theorem textToSync_cnt (s : State) : (textToSync s).cnt = 0 := rfl
@[simp] theorem textToSync_hlen (s : State) : (textToSync s).hlen = s.hlen := rfl
@[simp] theorem textToSync_plen (s : State) : (textToSync s).plen = s.plen := rfl
@[simp] theorem textToSync_star (s : State) : (textToSync s).star = 0 := rfl
@[simp] theorem textToSync_word (s : State) : (textToSync s).word = s.word := rfl
@[simp] theorem textToSync_nbit (s : State) : (textToSync s).nbit = s.nbit := rfl
@[simp] theorem textToSync_frLen (s : State) : (textToSync s).frLen = s.frLen := rfl
@[simp] theorem textToSync_frPayoff (s : State) : (textToSync s).frPayoff = s.frPayoff := rfl
@[simp] theorem textToSync_frPaylen (s : State) : (textToSync s).frPaylen = s.frPaylen := rfl
@[simp] theorem textToSync_frId (s : State) : (textToSync s).frId = s.frId := rfl
@[simp] theorem textToSync_frIdoff (s : State) : (textToSync s).frIdoff = s.frIdoff := rfl
@[simp] theorem textToSync_frIdlen (s : State) : (textToSync s).frIdlen = s.frIdlen := rfl
@[simp] theorem textToSync_buf (s : State) : (textToSync s).buf = s.buf := rfl
@[simp] theorem textToSync_msm (s : State) : (textToSync s).msm = s.msm := rfl
@[simp] theorem textToSync_events (s : State) : (textToSync s).events = s.events := rfl
@[simp] theorem textToSync_port (s : State) : (textToSync s).port = s.port := rfl
@[simp] theorem textToSync_freeCtr (s : State) : (textToSync s).freeCtr = s.freeCtr := rfl

/-! ### `legacyToSync` -/

@[simp] theorem legacyToSync_cfg (s : State) : (legacyToSync s).cfg = s.cfg := rfl
@[simp] theorem legacyToSync_res0 (s : State) : (legacyToSync s).res0 = s.res0 := rfl
@[simp] theorem legacyToSync_res1 (s : State) : (legacyToSync s).res1 = s.res1 := rfl
@[simp] theorem legacyToSync_done (s : State) : (legacyToSync s).done = s.done := rfl
@[simp] theorem legacyToSync_fvalid (s : State) : (legacyToSync s).fvalid = s.fvalid := rfl
@[simp] theorem legacyToSync_vok (s : State) : (legacyToSync s).vok = s.vok := rfl
@[simp] theorem legacyToSync_mvalid (s : State) : (legacyToSync s).mvalid = s.mvalid := rfl
@[simp] theorem legacyToSync_ill (s : State) : (legacyToSync s).ill = s.ill := rfl
@[simp] theorem legacyToSync_lastErr (s : State) : (legacyToSync s).lastErr = s.lastErr := rfl
@[simp] theorem legacyToSync_bitoff (s : State) : (legacyToSync s).bitoff = s.bitoff := rfl
@[simp] theorem legacyToSync_phase (s : State) : (legacyToSync s).phase = .sync := rfl
@[simp] theorem legacyToSync_cnt (s : State) : (legacyToSync s).cnt = 0 := rfl
@[simp] theorem legacyToSync_hlen (s : State) : (legacyToSync s).hlen = s.hlen := rfl
@[simp] theorem legacyToSync_plen (s : State) : (legacyToSync s).plen = s.plen := rfl
@[simp] theorem legacyToSync_star (s : State) : (legacyToSync s).star = s.star := rfl
@[simp] theorem legacyToSync_word (s : State) : (legacyToSync s).word = s.word &&& 3 := rfl
@[simp] theorem legacyToSync_nbit (s : State) : (legacyToSync s).nbit = s.nbit := rfl
@[simp] theorem legacyToSync_frLen (s : State) : (legacyToSync s).frLen = s.frLen := rfl
@[simp] theorem legacyToSync_frPayoff (s : State) : (legacyToSync s).frPayoff = s.frPayoff := rfl
@[simp] theorem legacyToSync_frPaylen (s : State) : (legacyToSync s).frPaylen = s.frPaylen := rfl
@[simp] theorem legacyToSync_frId (s : State) : (legacyToSync s).frId = s.frId := rfl
@[simp] theorem legacyToSync_frIdoff (s : State) : (legacyToSync s).frIdoff = s.frIdoff := rfl
@[simp] theorem legacyToSync_frIdlen (s : State) : (legacyToSync s).frIdlen = s.frIdlen := rfl
@[simp] theorem legacyToSync_buf (s : State) : (legacyToSync s).buf = s.buf := rfl
@[simp] theorem legacyToSync_msm (s : State) : (legacyToSync s).msm = s.msm := rfl
@[simp] theorem legacyToSync_events (s : State) : (legacyToSync s).events = s.events := rfl
@[simp] theorem legacyToSync_port (s : State) : (legacyToSync s).port = s.port := rfl
@[simp] theorem legacyToSync_freeCtr (s : State) : (legacyToSync s).freeCtr = s.freeCtr := rfl

/-! ### `msmBegin` -/

@[simp] theorem msmBegin_cfg (s : State) : (msmBegin s).cfg = s.cfg := rfl
@[simp] theorem msmBegin_res0 (s : State) : (msmBegin s).res0 = 0 := rfl
@[simp] theorem msmBegin_res1 (s : State) : (msmBegin s).res1 = s.res1 := rfl
@[simp] theorem msmBegin_done (s : State) : (msmBegin s).done = s.done := rfl
@[simp] theorem msmBegin_fvalid (s : State) : (msmBegin s).fvalid = s.fvalid := rfl
@[simp] theorem msmBegin_vok (s : State) : (msmBegin s).vok = s.vok := rfl
@[simp] theorem msmBegin_mvalid (s : State) : (msmBegin s).mvalid = false := rfl
@[simp] theorem msmBegin_ill (s : State) : (msmBegin s).ill = s.ill := rfl
@[simp] theorem msmBegin_lastErr (s : State) : (msmBegin s).lastErr = none := rfl
@[simp] theorem msmBegin_bitoff (s : State) : (msmBegin s).bitoff = s.bitoff := rfl
@[simp] theorem msmBegin_phase (s : State) : (msmBegin s).phase = s.phase := rfl
@[simp] theorem msmBegin_cnt (s : State) : (msmBegin s).cnt = s.cnt := rfl
@[simp] theorem msmBegin_hlen (s : State) : (msmBegin s).hlen = s.hlen := rfl
@[simp] theorem msmBegin_plen (s : State) : (msmBegin s).plen = s.plen := rfl
@[simp] theorem msmBegin_star (s : State) : (msmBegin s).star = s.star := rfl
@[simp] theorem msmBegin_word (s : State) : (msmBegin s).word = s.word := rfl
@[simp] theorem msmBegin_nbit (s : State) : (msmBegin s).nbit = s.nbit := rfl
@[simp] theorem msmBegin_frLen (s : State) : (msmBegin s).frLen = s.frLen := rfl
@[simp] theorem msmBegin_frPayoff (s : State) : (msmBegin s).frPayoff = s.frPayoff := rfl
@[simp] theorem msmBegin_frPaylen (s : State) : (msmBegin s).frPaylen = s.frPaylen := rfl
@[simp] theorem msmBegin_frId (s : State) : (msmBegin s).frId = s.frId := rfl
@[simp] theorem msmBegin_frIdoff (s : State) : (msmBegin s).frIdoff = s.frIdoff := rfl
@[simp] theorem msmBegin_frIdlen (s : State) : (msmBegin s).frIdlen = s.frIdlen := rfl
@[simp] theorem msmBegin_buf (s : State) : (msmBegin s).buf = s.buf := rfl
@[simp] theorem msmBegin_msm (s : State) : (msmBegin s).msm = s.msm := rfl
@[simp] theorem msmBegin_events (s : State) : (msmBegin s).events = s.events := rfl
@[simp] theorem msmBegin_port (s : State) : (msmBegin s).port = s.port := rfl
@[simp] theorem msmBegin_freeCtr (s : State) : (msmBegin s).freeCtr = s.freeCtr := rfl

/-! ### `msmForget` -/

@[simp] theorem msmForget_cfg (s : State) : (msmForget s).cfg = s.cfg := rfl
@[simp] theorem msmForget_res0 (s : State) : (msmForget s).res0 = s.res0 := rfl
@[simp] theorem msmForget_res1 (s : State) : (msmForget s).res1 = s.res1 := rfl
@[simp] theorem msmForget_done (s : State) : (msmForget s).done = s.done := rfl
@[simp] theorem msmForget_fvalid (s : State) : (msmForget s).fvalid = s.fvalid := rfl
@[simp] theorem msmForget_vok (s : State) : (msmForget s).vok = s.vok := rfl
@[simp] theorem msmForget_mvalid (s : State) : (msmForget s).mvalid = s.mvalid := rfl
@[simp] theorem msmForget_ill (s : State) : (msmForget s).ill = s.ill := rfl
@[simp] theorem msmForget_lastErr (s : State) : (msmForget s).lastErr = s.lastErr := rfl
@[simp] theorem msmForget_bitoff (s : State) : (msmForget s).bitoff = s.bitoff := rfl
@[simp] theorem msmForget_phase (s : State) : (msmForget s).phase = s.phase := rfl
@[simp] theorem msmForget_cnt (s : State) : (msmForget s).cnt = s.cnt := rfl
@[simp] theorem msmForget_hlen (s : State) : (msmForget s).hlen = s.hlen := rfl
@[simp] theorem msmForget_plen (s : State) : (msmForget s).plen = s.plen := rfl
@[simp] theorem msmForget_star (s : State) : (msmForget s).star = s.star := rfl
@[simp] theorem msmForget_word (s : State) : (msmForget s).word = s.word := rfl
@[simp] theorem msmForget_nbit (s : State) : (msmForget s).nbit = s.nbit := rfl
@[simp] theorem msmForget_frLen (s : State) : (msmForget s).frLen = s.frLen := rfl
@[simp] theorem msmForget_frPayoff (s : State) : (msmForget s).frPayoff = s.frPayoff := rfl
@[simp] theorem msmForget_frPaylen (s : State) : (msmForget s).frPaylen = s.frPaylen := rfl
@[simp] theorem msmForget_frId (s : State) : (msmForget s).frId = s.frId := rfl
@[simp] theorem msmForget_frIdoff (s : State) : (msmForget s).frIdoff = s.frIdoff := rfl
@[simp] theorem msmForget_frIdlen (s : State) : (msmForget s).frIdlen = s.frIdlen := rfl
@[simp] theorem msmForget_buf (s : State) : (msmForget s).buf = s.buf := rfl
@[simp] theorem msmForget_msm (s : State) : (msmForget s).msm = Sys2Proof.Config.freeMsmFile s.freeCtr := rfl
@[simp] theorem msmForget_events (s : State) : (msmForget s).events = s.events := rfl
@[simp] theorem msmForget_port (s : State) : (msmForget s).port = s.port := rfl
@[simp] theorem msmForget_freeCtr (s : State) : (msmForget s).freeCtr = s.freeCtr + 1 := rfl

end Sys2Proof.Machine
end

