-- ==== Sys2Proof/Laws/Access.lean ====
section
/-! SUPPORT. What the shared forms of the commands can answer, once each: the provers cite these. -/

namespace Sys2Proof.Machine

theorem exec_refuse (s : State) : refuse s = .next { s with ill := true } := rfl

/-- A bit-field command refuses, faults, or has its effect and advances the cursor. -/
theorem bitAccess_next {w : BitVec 8} {f : Nat → Nat → State → State} {s t : State}
    (h : bitAccess w f s = .next t) :
    (widthInRange w = false ∧ t = { s with ill := true }) ∨
    (widthInRange w = true ∧ fieldInBuf s w.toNat = true ∧ t = advance w.toNat (f s.bitoff.toNat w.toNat s)) := by
  unfold bitAccess at h
  split at h
  · split at h
    · exact .inr ⟨‹_›, ‹_›, (by simpa using h.symm)⟩
    · cases h
  · exact .inl ⟨eq_false_of_ne_true ‹_›, (by simpa [refuse] using h.symm)⟩

theorem bitAccess_ok {w : BitVec 8} {f : Nat → Nat → State → State} {s : State}
    (hw : widthInRange w = true) (hf : fieldInBuf s w.toNat = true) :
    bitAccess w f s = .next (advance w.toNat (f s.bitoff.toNat w.toNat s)) := by
  simp [bitAccess, hw, hf]

/-- A span command refuses or has its effect on the span's bytes. -/
theorem onSpan_next {a : BitVec 16} {l : Word} {f : List Byte → State → State} {s t : State}
    (h : onSpan a l f s = .next t) :
    (spanInBuf s a.toNat l.toNat = false ∧ t = { s with ill := true }) ∨
    (spanInBuf s a.toNat l.toNat = true ∧ t = f (spanBytes s a l) s) := by
  unfold onSpan at h
  split at h
  · exact .inr ⟨‹_›, (by simpa using h.symm)⟩
  · exact .inl ⟨eq_false_of_ne_true ‹_›, (by simpa [refuse] using h.symm)⟩

theorem onSpan_ok {a : BitVec 16} {l : Word} {f : List Byte → State → State} {s : State}
    (h : spanInBuf s a.toNat l.toNat = true) : onSpan a l f s = .next (f (spanBytes s a l) s) := by
  simp [onSpan, h]

/-- One step, by what the host has issued. -/
theorem step_cases (s : State) :
    (s.port = [] ∧ step s = .next s) ∨
    (∃ p r, s.port = p :: r ∧ step s = runPacket p { s with port := r }) := by
  cases h : s.port with
  | nil => exact .inl ⟨rfl, by simp [step, h]⟩
  | cons p r => exact .inr ⟨p, r, rfl, by simp [step, h]⟩

theorem runPacket_ok {p : Packet} {i : Instr} (h : decode p = .ok i) (s : State) : runPacket p s = exec i s := by
  simp [runPacket, h]

theorem runPacket_error {p : Packet} {e : DecodeError} (h : decode p = .error e) (s : State) :
    runPacket p s = refuse s := by
  simp [runPacket, h]

/-- `MSMDEC` refuses, or runs on a system of R76. -/
theorem execMsmdec_next {sys : BitVec 4} {z : BitVec 3} {x : BitVec 1} {p l : Word} {s t : State}
    (h : execMsmdec sys z x p l s = .next t) :
    t = { s with ill := true } ∨
    (∃ g, gnssOf sys = some g ∧ z = 0 ∧ spanInBuf s p.toNat l.toNat = true ∧
      t = msmRun g (variantOf x) p.toNat l.toNat s) := by
  unfold execMsmdec at h
  split at h
  · exact .inl (by simpa [refuse] using h.symm)
  · split at h
    · rename_i g hg hc
      exact .inr ⟨g, hg, hc.1, hc.2, by simpa using h.symm⟩
    · exact .inl (by simpa [refuse] using h.symm)

/-- `MSMRD` refuses, or delivers one element of a valid file. -/
theorem execMsmrd_next {sel : BitVec 8} {idx : BitVec 16} {s t : State} (h : execMsmrd sel idx s = .next t) :
    t = { s with ill := true } ∨
    (s.mvalid = true ∧ ∃ e, msmElem s.msm sel idx = some e ∧ t = deliverElem e s) := by
  unfold execMsmrd at h
  split at h
  · split at h
    · rename_i hm _ e he
      exact .inr ⟨hm, e, he, by simpa using h.symm⟩
    · exact .inl (by simpa [refuse] using h.symm)
  · exact .inl (by simpa [refuse] using h.symm)

/-- `PUSH` refuses, or takes the framer's step. -/
theorem execPush_next {b : Byte} {s t : State} (h : execPush b s = .next t) :
    (cfgWf s.cfg = false ∧ t = { s with ill := true }) ∨
    (cfgWf s.cfg = true ∧ t = reportDone (framerStep b (clearPushFlags s))) := by
  unfold execPush at h
  split at h
  · exact .inr ⟨‹_›, by simpa using h.symm⟩
  · exact .inl ⟨eq_false_of_ne_true ‹_›, by simpa [refuse] using h.symm⟩

end Sys2Proof.Machine
end

