-- ==== Sys2Proof/Laws/Framer.lean ====
section
/-! SUPPORT. What the framer can do with one byte, once each: how `PUSH` unfolds in each machine, and what every step leaves alone and can emit. -/

namespace Sys2Proof.Machine

/-- An instance with a generic descriptor runs the generic step of that descriptor. -/
theorem genericOf_step {s : State} {g : Generic} (h : genericOf s.cfg.proto = some g) (b : Byte) :
    framerStep b s = genericStep g b s ∧ protoOf g = s.cfg.proto := by
  cases hp : s.cfg.proto <;> rw [hp] at h <;> simp [genericOf] at h <;> subst h <;> simp [framerStep, hp, protoOf]

/-- `LKNOWN` of a generic instance is its descriptor's. -/
theorem lKnownOf_generic {c : Cfg} {g : Generic} (h : genericOf c.proto = some g) : lKnownOf c = lKnown c g := by
  unfold genericOf lKnownOf at *
  split at h <;> simp_all

/-- The bounds of `BUF_CAP` (R7). -/
theorem capacity_bounds {c : Cfg} (hc : cfgWf c = true) : lKnownOf c ≤ bufCapacity c ∧ bufCapacity c ≤ 65536 := by
  simp [cfgWf] at hc; omega

/-- What a well-formed configuration gives a generic descriptor (R8, R153). -/
theorem generic_cfg_facts {c : Cfg} {g : Generic} (hc : cfgWf c = true) (h : genericOf c.proto = some g) :
    (syncBytes c g) ≠ [] ∧ (syncBytes c g).length < lKnown c g ∧ lKnown c g ≤ bufCapacity c ∧ bufCapacity c ≤ 65536 ∧
    (∀ i, 0 < i → (syncBytes c g)[i]? ≠ (syncBytes c g)[0]? ∨ (syncBytes c g)[i]? = none) := by
  simp only [cfgWf, h, Bool.and_eq_true, decide_eq_true_eq] at hc
  obtain ⟨⟨⟨⟨⟨h1, h2⟩, -⟩, -⟩, -⟩, h3⟩ := hc
  rw [lKnownOf_generic h] at h1
  unfold syncWf at h3
  split at h3
  · simp at h3
  · rename_i b rest hs
    simp at h3
    simp [hs]
    refine ⟨h3.2, h1, h2, ?_⟩
    intro i hi
    obtain ⟨j, rfl⟩ : ∃ j, i = j + 1 := ⟨i - 1, by omega⟩
    left
    simp
    intro hh
    have := List.mem_of_getElem? hh
    exact h3.1 this

/-- On a well-formed configuration `PUSH` is the framer's step between the flag clearing and the report (R150). -/
theorem push_runs {s : State} (b : Byte) (hc : cfgWf s.cfg = true) :
    exec (.push b) s = .next (reportDone (framerStep b (clearPushFlags s))) := by
  simp [exec, execPush, hc]

/-- In `SYNC` a generic instance searches (R154). -/
theorem push_in_sync {s : State} {g : Generic} (b : Byte) (hc : cfgWf s.cfg = true) (hg : genericOf s.cfg.proto = some g)
    (hp : s.phase = .sync) :
    exec (.push b) s = .next (reportDone (syncSearch g b (clearPushFlags s))) := by
  have e : framerStep b (clearPushFlags s) = genericStep g b (clearPushFlags s) := (genericOf_step (s := clearPushFlags s) hg b).1
  rw [push_runs b hc, e]
  have hr : resyncMid g b (clearPushFlags s) = clearPushFlags s := by
    unfold resyncMid; rw [if_neg]; rintro ⟨h, -⟩; exact h hp
  simp only [genericStep, hr]
  rw [if_pos]; exact hp

/-- Outside `SYNC`, where R159 does not fire, a generic instance takes the byte (R155). -/
theorem push_outside_sync {s : State} {g : Generic} (b : Byte) (hc : cfgWf s.cfg = true) (hg : genericOf s.cfg.proto = some g)
    (hp : s.phase ≠ .sync) (hm : ¬ (midSync s.cfg g = true ∧ (syncBytes s.cfg g)[0]? = some b)) :
    exec (.push b) s = .next (reportDone (frameByte g b (clearPushFlags s))) := by
  have e : framerStep b (clearPushFlags s) = genericStep g b (clearPushFlags s) := (genericOf_step (s := clearPushFlags s) hg b).1
  rw [push_runs b hc, e]
  have hr : resyncMid g b (clearPushFlags s) = clearPushFlags s := by
    unfold resyncMid; rw [if_neg]; rintro ⟨-, h⟩; exact hm h
  simp only [genericStep, hr]
  rw [if_neg]; exact hp

/-- The invariant, read for a generic instance. -/
theorem generic_of_stateInv {s : State} {g : Generic} (hi : StateInv s) (hg : genericOf s.cfg.proto = some g) : GenericInv g s := by
  have := hi.2.2.1
  unfold FramerInv at this; unfold genericOf at hg
  split at this <;> simp_all

/-- A header length fits its register. -/
theorem headerLen_lt (c : Cfg) (m : Memory) (g : Generic) : headerLen c m g < 256 := by
  cases g <;> simp [headerLen, byteNat]; exact (Memory.byteAt m _).isLt

/-- A payload length fits its register. -/
theorem payloadLen_lt (c : Cfg) (m : Memory) (g : Generic) : payloadLen c m g < 65536 := by
  have h (a) : byteNat m a < 256 := (Memory.byteAt m a).isLt
  cases g <;> simp only [payloadLen]
  · have := h 1; have := h 2; omega
  · have := h c.binPlenOff; have := h (c.binPlenOff+1); omega
  · have := h 4; have := h 5; omega
  · have := h 1; have := h 2; omega

/-- `CNT + 1` does not wrap inside the buffer. -/
theorem cnt_succ {s : State} {n : Nat} (h : s.cnt.toNat + 1 = n) (hn : n ≤ 65536) : (s.cnt + 1).toNat = n := by
  rw [BitVec.toNat_add]; simp; omega

/-- A `PUSH` that completes no frame answers 0. -/
theorem reportDone_false {s : State} (h : s.done = false) : reportDone s = { s with res0 := 0 } := by
  unfold reportDone setRes0; rw [h]; cases s; simp_all

/-- A byte that is neither marker. -/
theorem isMarker_false {b : Byte} (h1 : b ≠ 0x24) (h2 : b ≠ 0x21) : isMarker b = false := by
  simp only [isMarker, Bool.or_eq_false_iff, beq_eq_false_iff_ne]; exact ⟨h1, h2⟩

/-- An NMEA instance runs the text step. -/
theorem push_text {s : State} (b : Byte) (hc : cfgWf s.cfg = true) (hP : s.cfg.proto = .nmea) :
    exec (.push b) s = .next (reportDone (textStep b (clearPushFlags s))) := by
  rw [push_runs b hc]; unfold framerStep; simp [hP]

/-- Inside a sentence, a byte that is no marker (R172). -/
theorem push_text_inside {s : State} (b : Byte) (hc : cfgWf s.cfg = true) (hP : s.cfg.proto = .nmea) (h1 : b ≠ 0x24) (h2 : b ≠ 0x21)
    (hp : s.phase ≠ .sync) :
    exec (.push b) s = .next (reportDone (textByte b (clearPushFlags s))) := by
  rw [push_text b hc hP]; unfold textStep; rw [if_neg (by simp [isMarker_false h1 h2]), if_neg (by exact hp)]

/-- What no framer step changes (R150). -/
def SameOther (s t : State) : Prop :=
  t.cfg = s.cfg ∧ t.res0 = s.res0 ∧ t.res1 = s.res1 ∧ t.vok = s.vok ∧ t.mvalid = s.mvalid ∧ t.ill = s.ill ∧ t.bitoff = s.bitoff ∧
  t.msm = s.msm ∧ t.port = s.port ∧ t.freeCtr = s.freeCtr

/-- No event; or one FRAME; or one ERR of the framer's kinds; and after an event the framer is in `SYNC` (R158, R160). -/
def OneEvent (s t : State) : Prop :=
  (t.events = s.events ∧ t.lastErr = s.lastErr ∧ t.done = s.done ∧ t.fvalid = s.fvalid) ∨
  (∃ id bs o l, t.events = s.events ++ [.frame (protoId s.cfg.proto) id bs o l] ∧ t.lastErr = s.lastErr ∧ t.done = true ∧ t.fvalid = true ∧ t.phase = .sync ∧ t.cnt = 0) ∨
  (∃ k id, (k = .size ∨ k = .checksum) ∧ t.events = s.events ++ [.err k (protoId s.cfg.proto) id] ∧ t.lastErr = some k ∧ t.done = s.done ∧ t.fvalid = s.fvalid ∧ t.phase = .sync ∧ t.cnt = 0)

theorem SameOther.rfl {s : State} : SameOther s s := by simp [SameOther]

theorem SameOther.trans {s t u : State} (h : SameOther s t) (h' : SameOther t u) : SameOther s u := by
  unfold SameOther at *; simp_all

/-- The generic step, whatever the state. -/
theorem genericStep_one (g : Generic) (b : Byte) (s : State) (hP : protoOf g = s.cfg.proto) :
    SameOther s (genericStep g b s) ∧ OneEvent s (genericStep g b s) := by
  have h1 : ∀ t, t.cfg = s.cfg → SameOther t (phaseStep g t) ∧ OneEvent t (phaseStep g t) := by
    intro t ht
    unfold phaseStep; split
    · exact ⟨⟨rfl, rfl, rfl, rfl, rfl, rfl, rfl, rfl, rfl, rfl⟩, .inl ⟨rfl, rfl, rfl, rfl⟩⟩
    · split
      · exact ⟨⟨rfl, rfl, rfl, rfl, rfl, rfl, rfl, rfl, rfl, rfl⟩, .inl ⟨rfl, rfl, rfl, rfl⟩⟩
      · split
        · exact ⟨⟨rfl, rfl, rfl, rfl, rfl, rfl, rfl, rfl, rfl, rfl⟩, .inl ⟨rfl, rfl, rfl, rfl⟩⟩
        · unfold completeFrame; split
          · refine ⟨⟨rfl, rfl, rfl, rfl, rfl, rfl, rfl, rfl, rfl, rfl⟩, .inr (.inl ⟨.num (BitVec.ofNat 32 (frameId t.cfg t.buf g)), memRead t.buf 0 t.cnt.toNat, t.hlen.toNat, t.plen.toNat, ?_, rfl, rfl, rfl, rfl, rfl⟩)⟩
            have : protoId t.cfg.proto = protoId (protoOf g) := by rw [ht, hP]
            rw [this]; rfl
          · refine ⟨⟨rfl, rfl, rfl, rfl, rfl, rfl, rfl, rfl, rfl, rfl⟩, .inr (.inr ⟨.checksum, none, .inr rfl, rfl, rfl, rfl, rfl, rfl, rfl⟩)⟩
  have h2 : ∀ t, t.cfg = s.cfg → SameOther t (lengthStep g t) ∧ OneEvent t (lengthStep g t) := by
    intro t ht
    unfold lengthStep; dsimp only; split
    · exact ⟨⟨rfl, rfl, rfl, rfl, rfl, rfl, rfl, rfl, rfl, rfl⟩, .inl ⟨rfl, rfl, rfl, rfl⟩⟩
    · split
      · exact ⟨⟨rfl, rfl, rfl, rfl, rfl, rfl, rfl, rfl, rfl, rfl⟩, .inr (.inr ⟨.size, none, .inl rfl, rfl, rfl, rfl, rfl, rfl, rfl⟩)⟩
      · exact h1 { t with hlen := _, plen := _ } ht
  have h3 : ∀ t, t.cfg = s.cfg → SameOther t (frameByte g b t) ∧ OneEvent t (frameByte g b t) := by
    intro t ht
    unfold frameByte; dsimp only; split
    · exact ⟨⟨rfl, rfl, rfl, rfl, rfl, rfl, rfl, rfl, rfl, rfl⟩, .inl ⟨rfl, rfl, rfl, rfl⟩⟩
    · split
      · exact h2 (takeByte b t) ht
      · exact h1 (takeByte b t) ht
  have h4 : ∀ t, SameOther t (syncSearch g b t) ∧ OneEvent t (syncSearch g b t) := by
    intro t
    unfold syncSearch syncMatch; dsimp only
    (repeat' split) <;> exact ⟨⟨rfl, rfl, rfl, rfl, rfl, rfl, rfl, rfl, rfl, rfl⟩, .inl ⟨rfl, rfl, rfl, rfl⟩⟩
  unfold genericStep resyncMid; dsimp only
  split
  · rw [if_pos (show (toSync s).phase = .sync from rfl)]; exact h4 (toSync s)
  · split
    · exact h4 s
    · exact h3 s rfl

/-- The text step, whatever the state. -/
theorem textStep_one (b : Byte) (s : State) (hP : s.cfg.proto = .nmea) :
    SameOther s (textStep b s) ∧ OneEvent s (textStep b s) := by
  unfold textStep; split
  · exact ⟨⟨rfl, rfl, rfl, rfl, rfl, rfl, rfl, rfl, rfl, rfl⟩, .inl ⟨rfl, rfl, rfl, rfl⟩⟩
  · split
    · exact ⟨⟨rfl, rfl, rfl, rfl, rfl, rfl, rfl, rfl, rfl, rfl⟩, .inl ⟨rfl, rfl, rfl, rfl⟩⟩
    · unfold textByte; split
      · exact ⟨⟨rfl, rfl, rfl, rfl, rfl, rfl, rfl, rfl, rfl, rfl⟩, .inr (.inr ⟨.size, none, .inl rfl, rfl, rfl, rfl, rfl, rfl, rfl⟩)⟩
      · have : ∀ t, t.cfg = s.cfg → SameOther t (textPhase b t) ∧ OneEvent t (textPhase b t) := by
          intro t ht
          unfold textPhase textEnd; (repeat' split)
          all_goals first
            | exact ⟨⟨rfl, rfl, rfl, rfl, rfl, rfl, rfl, rfl, rfl, rfl⟩, .inl ⟨rfl, rfl, rfl, rfl⟩⟩
            | skip
          unfold completeText; split
          · refine ⟨⟨rfl, rfl, rfl, rfl, rfl, rfl, rfl, rfl, rfl, rfl⟩, .inr (.inl ⟨.str (memRead t.buf 1 (textIdLen t)), memRead t.buf 0 t.cnt.toNat, 1, t.star.toNat - 1, ?_, rfl, rfl, rfl, rfl, rfl⟩)⟩
            rw [ht, hP]; rfl
          · exact ⟨⟨rfl, rfl, rfl, rfl, rfl, rfl, rfl, rfl, rfl, rfl⟩, .inr (.inr ⟨.checksum, none, .inr rfl, rfl, rfl, rfl, rfl, rfl, rfl⟩)⟩
        exact this (takeByte b s) rfl

/-- One legacy bit, whatever the state. -/
theorem legacyBit_one (v : Bool) (s : State) (hP : s.cfg.proto = .legacy) :
    SameOther s (legacyBit s v) ∧ OneEvent s (legacyBit s v) := by
  have h1 : ∀ t, t.cfg = s.cfg → SameOther t (legacyComplete t) ∧ OneEvent t (legacyComplete t) := by
    intro t ht
    unfold legacyComplete; split
    · exact ⟨⟨rfl, rfl, rfl, rfl, rfl, rfl, rfl, rfl, rfl, rfl⟩, .inl ⟨rfl, rfl, rfl, rfl⟩⟩
    · refine ⟨⟨rfl, rfl, rfl, rfl, rfl, rfl, rfl, rfl, rfl, rfl⟩, .inr (.inl ⟨.num (legacyId t), memRead t.buf 0 t.cnt.toNat, 6, t.plen.toNat, ?_, rfl, rfl, rfl, rfl, rfl⟩)⟩
      rw [ht, hP]; rfl
  have h2 : ∀ t, t.cfg = s.cfg → SameOther t (legacyWord t) ∧ OneEvent t (legacyWord t) := by
    intro t ht
    unfold legacyWord; split
    · unfold legacyLength; split
      · dsimp only; split
        · exact ⟨⟨rfl, rfl, rfl, rfl, rfl, rfl, rfl, rfl, rfl, rfl⟩, .inr (.inr ⟨.size, some _, .inl rfl, rfl, rfl, rfl, rfl, rfl, rfl⟩)⟩
        · exact h1 { t with buf := _, cnt := _, hlen := _, plen := _ } ht
      · exact h1 { t with buf := _, cnt := _ } ht
    · exact ⟨⟨rfl, rfl, rfl, rfl, rfl, rfl, rfl, rfl, rfl, rfl⟩, .inr (.inr ⟨.checksum, some _, .inr rfl, rfl, rfl, rfl, rfl, rfl, rfl⟩)⟩
  unfold legacyBit; dsimp only; split
  · unfold legacySearch; split <;> exact ⟨⟨rfl, rfl, rfl, rfl, rfl, rfl, rfl, rfl, rfl, rfl⟩, .inl ⟨rfl, rfl, rfl, rfl⟩⟩
  · unfold legacyCollect; split
    · exact ⟨⟨rfl, rfl, rfl, rfl, rfl, rfl, rfl, rfl, rfl, rfl⟩, .inl ⟨rfl, rfl, rfl, rfl⟩⟩
    · exact h2 { s with word := _, nbit := 0 } rfl

/-- A bit that cannot end a word emits nothing. -/
theorem legacyBit_quiet (v : Bool) (s : State) (h : s.phase = .sync ∨ s.nbit.toNat + 1 < 30) :
    (legacyBit s v).events = s.events ∧ (legacyBit s v).lastErr = s.lastErr ∧ (legacyBit s v).done = s.done ∧ (legacyBit s v).fvalid = s.fvalid ∧
    ((legacyBit s v).phase = .sync ∨ (legacyBit s v).nbit.toNat ≤ s.nbit.toNat + 1 ∧ s.phase ≠ .sync ∨ (legacyBit s v).nbit = 0) := by
  unfold legacyBit; dsimp only; split
  · unfold legacySearch; split
    · exact ⟨rfl, rfl, rfl, rfl, .inr (.inr rfl)⟩
    · exact ⟨rfl, rfl, rfl, rfl, .inl (by assumption)⟩
  · rename_i hp
    unfold legacyCollect
    have : s.nbit.toNat + 1 < 30 := by
      rcases h with h | h
      · exact absurd h hp
      · exact h
    rw [if_pos (by exact this)]
    refine ⟨rfl, rfl, rfl, rfl, .inr (.inl ⟨?_, hp⟩)⟩
    show (s.nbit + 1).toNat ≤ _
    rw [BitVec.toNat_add]; exact Nat.mod_le _ _

/-- Nor do several. -/
theorem legacyFold_quiet (l : List Bool) (s : State) (hl : l.length < 30) (h : s.phase = .sync ∨ s.nbit.toNat + l.length < 30) :
    (l.foldl legacyBit s).events = s.events ∧ (l.foldl legacyBit s).lastErr = s.lastErr ∧ (l.foldl legacyBit s).done = s.done ∧ (l.foldl legacyBit s).fvalid = s.fvalid := by
  induction l generalizing s with
  | nil => exact ⟨rfl, rfl, rfl, rfl⟩
  | cons v l ih =>
    simp only [List.length_cons] at *
    have q := legacyBit_quiet v s (by rcases h with h | h; exact .inl h; exact .inr (by omega))
    obtain ⟨q1, q2, q3, q4, q5⟩ := q
    have := ih (legacyBit s v) (by omega) (by
      rcases q5 with q | ⟨q, q'⟩ | q
      · exact .inl q
      · rcases h with h | h
        · exact absurd h q'
        · exact .inr (by omega)
      · right; rw [q]; simp; omega)
    simp only [List.foldl_cons, this, q1, q2, q3, q4, and_self]

/-- After an event too few bits are left in `WORD` to show a preamble other than 0 (R180). -/
theorem legacyFold_sync (l : List Bool) (s : State) (hp : s.phase = .sync) (hc : s.cnt = 0) (n : Nat) (hn : n + l.length ≤ 22)
    (hw : s.word.toNat < 2 ^ n) (hpre : s.cfg.legPreamble ≠ 0) :
    (l.foldl legacyBit s).phase = .sync ∧ (l.foldl legacyBit s).cnt = 0 := by
  induction l generalizing s n with
  | nil => exact ⟨hp, hc⟩
  | cons v l ih =>
    simp only [List.length_cons] at *
    rw [List.foldl_cons]
    have hw' : ((s.word <<< 1) + (BitVec.ofBool v).setWidth 32).toNat < 2 ^ (n + 1) := by
      rw [BitVec.toNat_add, BitVec.toNat_shiftLeft]
      have : ((BitVec.ofBool v).setWidth 32).toNat ≤ 1 := by cases v <;> decide
      refine lt_of_le_of_lt (Nat.mod_le _ _) ?_
      have : s.word.toNat <<< 1 % 2 ^ 32 ≤ s.word.toNat * 2 := by
        refine (Nat.mod_le _ _).trans ?_; simp [Nat.shiftLeft_eq]
      rw [pow_succ]; omega
    have e : legacyBit s v = { s with word := (s.word <<< 1) + (BitVec.ofBool v).setWidth 32 } := by
      unfold legacyBit; dsimp only; rw [if_pos hp]; unfold legacySearch; rw [if_neg]
      rintro ⟨h, -⟩
      simp only [legacyPreamble, beq_iff_eq] at h
      generalize (s.word <<< 1) + (BitVec.ofBool v).setWidth 32 = W at *
      have hb : ∀ i, 22 ≤ i → W.getLsbD i = false := by
        intro i hi
        rw [BitVec.getLsbD]
        apply Nat.testBit_lt_two_pow
        exact lt_of_lt_of_le hw' (Nat.pow_le_pow_right (by omega) (by omega))
      rw [hb 30 (by omega)] at h
      simp at h
      apply hpre
      rw [← h]
      ext i hi; simp [hb (22 + i) (by omega)]
    rw [e]
    exact ih _ hp hc (n+1) (by omega) hw' hpre

/-- The bits of a byte change nothing but the framer. -/
theorem legacyFold_same (l : List Bool) (s : State) (hP : s.cfg.proto = .legacy) : SameOther s (l.foldl legacyBit s) := by
  induction l generalizing s with
  | nil => exact SameOther.rfl
  | cons v l ih =>
    have h := (legacyBit_one v s hP).1
    exact h.trans (ih _ (by rw [h.1]; exact hP))

/-- A bit that emits keeps the last two bits only. -/
theorem legacyBit_word (v : Bool) (s : State) (h : (legacyBit s v).events ≠ s.events) : (legacyBit s v).word.toNat < 4 := by
  have key : ∀ w : Word, (w &&& 3).toNat < 4 := by
    intro w; rw [BitVec.toNat_and]
    exact lt_of_le_of_lt Nat.and_le_right (by decide)
  unfold legacyBit at h ⊢; dsimp only at h ⊢
  split at h
  · unfold legacySearch at h; split at h <;> exact absurd rfl h
  · rename_i hp; rw [if_neg hp]
    unfold legacyCollect at h ⊢; split at h
    · exact absurd rfl h
    · rename_i hn; rw [if_neg hn]
      unfold legacyWord at h ⊢; split at h
      · rename_i hk; rw [if_pos hk]
        unfold legacyLength at h ⊢; dsimp only at h ⊢; split at h
        · rename_i h6; rw [if_pos h6]; split at h
          · rename_i h7; rw [if_pos h7]; exact key _
          · rename_i h7; rw [if_neg h7]
            unfold legacyComplete at h ⊢; split at h
            · exact absurd rfl h
            · rename_i h8; rw [if_neg h8]; exact key _
        · rename_i h6; rw [if_neg h6]
          unfold legacyComplete at h ⊢; split at h
          · exact absurd rfl h
          · rename_i h8; rw [if_neg h8]; exact key _
      · rename_i hk; rw [if_neg hk]; exact key _

/-- The six bits of a byte emit at most one event. -/
theorem legacyFold_one (l : List Bool) (s : State) (hP : s.cfg.proto = .legacy) (hl : l.length ≤ 6) :
    (((l.foldl legacyBit s).events = s.events ∧ (l.foldl legacyBit s).lastErr = s.lastErr ∧ (l.foldl legacyBit s).done = s.done ∧ (l.foldl legacyBit s).fvalid = s.fvalid) ∨
    (∃ id bs o n, (l.foldl legacyBit s).events = s.events ++ [.frame 4 id bs o n] ∧ (l.foldl legacyBit s).lastErr = s.lastErr ∧ (l.foldl legacyBit s).done = true ∧ (l.foldl legacyBit s).fvalid = true) ∨
    (∃ k id, (k = .size ∨ k = .checksum) ∧ (l.foldl legacyBit s).events = s.events ++ [.err k 4 id] ∧ (l.foldl legacyBit s).lastErr = some k ∧ (l.foldl legacyBit s).done = s.done ∧ (l.foldl legacyBit s).fvalid = s.fvalid)) ∧
    (s.cfg.legPreamble ≠ 0 → (l.foldl legacyBit s).events ≠ s.events → (l.foldl legacyBit s).phase = .sync ∧ (l.foldl legacyBit s).cnt = 0) := by
  induction l generalizing s with
  | nil => exact ⟨.inl ⟨rfl, rfl, rfl, rfl⟩, fun _ h => absurd rfl h⟩
  | cons v l ih =>
    simp only [List.length_cons] at hl
    rw [List.foldl_cons]
    obtain ⟨h1, h2⟩ := legacyBit_one v s hP
    have hP' : (legacyBit s v).cfg.proto = .legacy := by rw [h1.1]; exact hP
    have hw := legacyBit_word v s
    have hid : protoId s.cfg.proto = 4 := by rw [hP]; rfl
    rcases h2 with ⟨a, b, c, d⟩ | ⟨id, bs, o, n, a, b, c, d, e, f⟩ | ⟨k, id, hk, a, b, c, d, e, f⟩
    · have := ih (legacyBit s v) hP' (by omega)
      rw [a, b, c, d, h1.1] at this
      exact this
    · have q := legacyFold_quiet l (legacyBit s v) (by omega) (.inl e)
      refine ⟨.inr (.inl ⟨id, bs, o, n, ?_⟩), fun hpre hev => ?_⟩
      · rw [q.1, q.2.1, q.2.2.1, q.2.2.2, a, b, c, d, hid]; exact ⟨rfl, rfl, rfl, rfl⟩
      · exact legacyFold_sync l _ e f 2 (by omega) (hw (by rw [a]; simp)) (by rw [h1.1]; exact hpre)
    · have q := legacyFold_quiet l (legacyBit s v) (by omega) (.inl e)
      refine ⟨.inr (.inr ⟨k, id, hk, ?_⟩), fun hpre hev => ?_⟩
      · rw [q.1, q.2.1, q.2.2.1, q.2.2.2, a, b, c, d, hid]; exact ⟨rfl, rfl, rfl, rfl⟩
      · exact legacyFold_sync l _ e f 2 (by omega) (hw (by rw [a]; simp)) (by rw [h1.1]; exact hpre)

/-- No event, one FRAME or one ERR. -/
def AtMostOneRecord (s t : State) : Prop :=
  (t.events = s.events ∧ t.lastErr = s.lastErr ∧ t.done = s.done ∧ t.fvalid = s.fvalid) ∨
  (∃ id bs o l, t.events = s.events ++ [.frame (protoId s.cfg.proto) id bs o l] ∧ t.lastErr = s.lastErr ∧ t.done = true ∧ t.fvalid = true) ∨
  (∃ k id, (k = .size ∨ k = .checksum) ∧ t.events = s.events ++ [.err k (protoId s.cfg.proto) id] ∧ t.lastErr = some k ∧ t.done = s.done ∧ t.fvalid = s.fvalid)

theorem OneEvent.weak {s t : State} (h : OneEvent s t) : AtMostOneRecord s t ∧ (t.events ≠ s.events → t.phase = .sync ∧ t.cnt = 0) := by
  rcases h with ⟨a, b, c, d⟩ | ⟨id, bs, o, n, a, b, c, d, e, f⟩ | ⟨k, id, hk, a, b, c, d, e, f⟩
  · exact ⟨.inl ⟨a, b, c, d⟩, fun h => absurd a h⟩
  · exact ⟨.inr (.inl ⟨id, bs, o, n, a, b, c, d⟩), fun h => ⟨e, f⟩⟩
  · exact ⟨.inr (.inr ⟨k, id, hk, a, b, c, d⟩), fun h => ⟨e, f⟩⟩

/-- One step of the framer, whatever the protocol and the state. -/
theorem framerStep_one (b : Byte) (s : State) :
    SameOther s (framerStep b s) ∧ AtMostOneRecord s (framerStep b s) ∧
    ((s.cfg.proto = .legacy → s.cfg.legPreamble ≠ 0) → (framerStep b s).events ≠ s.events → (framerStep b s).phase = .sync ∧ (framerStep b s).cnt = 0) := by
  have gen (g : Generic) (hP : protoOf g = s.cfg.proto) := genericStep_one g b s hP
  cases hP : s.cfg.proto
  case legacy =>
    have e : framerStep b s = legacyStep b s := by unfold framerStep; simp [hP]
    rw [e]; unfold legacyStep; split
    · obtain ⟨h1, h2⟩ := legacyFold_one (lowBits b) s hP (by simp [lowBits])
      refine ⟨legacyFold_same _ _ hP, ?_, fun hl he => h2 (hl rfl) he⟩
      unfold AtMostOneRecord; rw [hP]; exact h1
    · exact ⟨SameOther.rfl, .inl ⟨rfl, rfl, rfl, rfl⟩, fun _ h => absurd rfl h⟩
  case nmea =>
    have e : framerStep b s = textStep b s := by unfold framerStep; simp [hP]
    rw [e]; obtain ⟨h1, h2⟩ := textStep_one b s hP
    exact ⟨h1, h2.weak.1, fun _ => h2.weak.2⟩
  all_goals
    obtain ⟨g, hg⟩ : ∃ g, genericOf s.cfg.proto = some g := by rw [hP]; exact ⟨_, rfl⟩
    obtain ⟨e, hq⟩ := genericOf_step hg b
    rw [e]
    obtain ⟨h1, h2⟩ := gen g hq
    exact ⟨h1, h2.weak.1, fun _ => h2.weak.2⟩

end Sys2Proof.Machine
end

