-- ==== Sys2Proof/Laws/Msm.lean ====
section
/-! SUPPORT. What `MSMDEC` can do, and the counts and the cell mask of a record that decodes. -/

namespace Sys2Proof.Machine

/-- `MSMDEC` with its operands in range: it fails with one of two kinds, or decodes (R200). -/
theorem msmRun_cases (g : GnssSys) (x : Variant) (p l : Nat) (s : State) :
    (∃ k, (k = .decode ∨ k = .trailing) ∧ msmRun g x p l s = { s with res0 := 0, mvalid := false, lastErr := some k, msm := Sys2Proof.Config.freeMsmFile s.freeCtr, freeCtr := s.freeCtr + 1, events := s.events ++ [.err k (protoId s.cfg.proto) (msmErrId s.buf p l)] }) ∨
    (msmDefect s.cfg.msm s.buf x p l = none ∧ msmRun g x p l s = { s with res0 := 1, mvalid := true, lastErr := none, msm := msmFileOf s.cfg.msm s.buf g x p, events := s.events ++ [.msg (protoId s.cfg.proto) (msmFileOf s.cfg.msm s.buf g x p).hdr.msgnum (msmFileOf s.cfg.msm s.buf g x p)] }) := by
  unfold msmRun
  cases h : msmDefect s.cfg.msm s.buf x p l with
  | none => exact .inr ⟨rfl, rfl⟩
  | some k =>
    refine .inl ⟨k, ?_, rfl⟩
    unfold msmDefect at h
    repeat' (split at h)
    all_goals simp at h
    all_goals (subst h; simp)

theorem popcount_le {n : Nat} (v : BitVec n) : popcount v ≤ n := by
  unfold popcount setPositions
  exact (List.length_filter_le _ _).trans (by simp)

/-- Leading positions only. -/
theorem popcount_le_of {n k : Nat} (v : BitVec n) (hk : k ≤ n) (h : ∀ i, k ≤ i → i < n → v.getMsbD i = false) : popcount v ≤ k := by
  unfold popcount setPositions
  obtain ⟨d, rfl⟩ : ∃ d, n = k + d := ⟨n - k, by omega⟩
  rw [List.range_add, List.filter_append, List.length_append]
  have : (List.filter (fun i => v.getMsbD i) (List.map (fun x => k + x) (List.range d))) = [] := by
    rw [List.filter_eq_nil_iff]
    intro a ha
    simp at ha
    obtain ⟨x, hx, rfl⟩ := ha
    rw [h _ (by omega) (by omega)]; simp
  rw [this]
  simpa using (List.length_filter_le _ _).trans (by simp)

/-- The cell mask, bit by bit (R210). -/
theorem cellMaskAt_bit (c : MsmCfg) (m : Memory) (p i : Nat) (hn : nSat c m p * nSig c m p ≤ 64) (hi : i < 64) :
    (cellMaskAt c m p).getMsbD i = (decide (i < nSat c m p * nSig c m p) && bitAt m (8 * p + hdrBits c + i)) := by
  unfold cellMaskAt; dsimp only
  generalize nSat c m p * nSig c m p = n at *
  rw [BitVec.getMsbD_eq_getLsbD]
  simp only [hi, decide_true, Bool.true_and, BitVec.getLsbD_ofNat, show 64 - 1 - i < 64 by omega]
  rw [Nat.testBit_mul_two_pow]
  have gb : ∀ (p w j : Nat), j < w → (getU m p w).testBit j = bitAt m (p + (w - 1 - j)) := by
    intro p w
    induction w with
    | zero => intro j hj; omega
    | succ w ih =>
      intro j hj
      rw [getU]
      cases j with
      | zero =>
        rw [Nat.testBit_zero]
        cases h : bitAt m (p + w) <;> simp [h]
      | succ j =>
        rw [Nat.testBit_succ]
        have : (2 * getU m p w + (bitAt m (p + w)).toNat) / 2 = getU m p w := by
          have := Bool.toNat_lt (bitAt m (p + w)); omega
        rw [this, ih j (by omega)]
        congr 2; omega
  by_cases h : i < n
  · unfold fieldU; rw [gb _ _ _ (by omega)]
    simp only [h, decide_true, Bool.true_and]
    rw [show decide (64 - n ≤ 64 - 1 - i) = true by simp; omega, Bool.true_and]
    congr 1; omega
  · simp only [h, decide_false, Bool.false_and]
    rw [show decide (64 - n ≤ 64 - 1 - i) = false by simp; omega, Bool.false_and]

/-- `NCELL <= NSAT * NSIG` (R34). -/
theorem nCell_le (c : MsmCfg) (m : Memory) (p : Nat) (hn : nSat c m p * nSig c m p ≤ 64) : nCell c m p ≤ nSat c m p * nSig c m p := by
  unfold nCell
  apply popcount_le_of _ hn
  intro i hi h64
  rw [cellMaskAt_bit c m p i hn h64]; simp; omega

/-- The counts and the lists of a record that decodes. -/
theorem msmFile_counts (c : MsmCfg) (m : Memory) (g : GnssSys) (x : Variant) (p l : Nat) (h : msmDefect c m x p l = none) :
    (msmFileOf c m g x p).hdr.nsat.toNat = nSat c m p ∧ (msmFileOf c m g x p).hdr.nsig.toNat = nSig c m p ∧
    (msmFileOf c m g x p).hdr.ncell.toNat = nCell c m p ∧ nSat c m p * nSig c m p ≤ 64 ∧
    (msmFileOf c m g x p).sats.length = nSat c m p ∧ (msmFileOf c m g x p).cells.length = nCell c m p := by
  have hn : nSat c m p * nSig c m p ≤ 64 := by
    unfold msmDefect at h; repeat' (split at h)
    all_goals simp at h
    omega
  have h1 : nSat c m p ≤ 64 := popcount_le _
  have h2 : nSig c m p ≤ 32 := popcount_le _
  have h3 : nCell c m p ≤ 64 := popcount_le _
  refine ⟨?_, ?_, ?_, hn, by simp [msmFileOf, satEntries], by simp [msmFileOf, cellEntries]⟩
  all_goals simp [msmFileOf, msmHeaderOf]; omega

/-- The positions of the 1 bits. Cite this and rewrite: left to unification, a 64-bit mask is evaluated bit by bit. -/
theorem mem_setPositions {n} (v : BitVec n) (k : Nat) : k ∈ setPositions v ↔ k < n ∧ v.getMsbD k = true := by
  simp [setPositions]

/-- They ascend (R208, R218). -/
theorem setPositions_sorted {n} (v : BitVec n) : (setPositions v).Pairwise (· < ·) := List.Pairwise.filter _ List.pairwise_lt_range

theorem getD_mem_of_lt (l : List Nat) (i : Nat) (hi : i < l.length) : l.getD i 0 ∈ l := by
      rw [List.getD_eq_getElem?_getD, List.getElem?_eq_getElem hi, Option.getD_some]; exact List.getElem_mem hi

theorem satIds_length (c : MsmCfg) (m : Memory) (p : Nat) : (satIds c m p).length = nSat c m p := by
  unfold satIds nSat popcount; rw [List.length_map]

/-- Satellite ids are `1 .. 64` (R208). -/
theorem satIds_bounds (c : MsmCfg) (m : Memory) (p : Nat) (y : Nat) (this : y ∈ satIds c m p) : 1 ≤ y ∧ y ≤ 64 := by
      unfold satIds at this
      rw [List.mem_map] at this
      obtain ⟨a, ha, hb⟩ := this
      rw [mem_setPositions] at ha
      obtain ⟨h1, -⟩ := ha
      omega

/-- A list, entry by entry. -/
theorem map_range_getD (l : List Nat) : (List.range l.length).map (fun i => l.getD i 0) = l := by
  apply List.ext_getElem (by simp)
  intro i h1 h2; simp [List.getElem?_eq_getElem h2]

/-- The `i`-th satellite entry. -/
theorem satEntries_get {c : MsmCfg} {m : Memory} {p : Nat} {g : GnssSys} {x : Variant} {i : Nat} {e : SatEntry}
    (h : (satEntries c m g x p)[i]? = some e) : i < nSat c m p ∧ e = satEntryAt c m g x p i := by
  unfold satEntries at h
  rw [List.getElem?_map] at h
  cases hh : (List.range (nSat c m p))[i]? with
  | none => rw [hh] at h; cases h
  | some j =>
    rw [hh] at h
    rw [List.getElem?_eq_some_iff] at hh
    obtain ⟨h1, h2⟩ := hh
    rw [List.getElem_range] at h2; subst h2
    rw [List.length_range] at h1
    rw [Option.map_some] at h
    exact ⟨h1, by injection h with h; exact h.symm⟩

/-- The `k`-th cell entry. -/
theorem cellEntries_get {c : MsmCfg} {m : Memory} {p : Nat} {g : GnssSys} {x : Variant} {i : Nat} {e : CellEntry}
    (h : (cellEntries c m g x p)[i]? = some e) : i < nCell c m p ∧ e = cellEntryAt c m g x p i := by
  unfold cellEntries at h
  rw [List.getElem?_map] at h
  cases hh : (List.range (nCell c m p))[i]? with
  | none => rw [hh] at h; cases h
  | some j =>
    rw [hh] at h
    rw [List.getElem?_eq_some_iff] at hh
    obtain ⟨h1, h2⟩ := hh
    rw [List.getElem_range] at h2; subst h2
    rw [List.length_range] at h1
    rw [Option.map_some] at h
    exact ⟨h1, by injection h with h; exact h.symm⟩

/-- The mask index of a cell is inside the mask and marked (R218). -/
theorem cellIndex_marked (c : MsmCfg) (m : Memory) (p k : Nat) (hn : nSat c m p * nSig c m p ≤ 64) (hk : k < nCell c m p) :
    cellIndex c m p k < nSat c m p * nSig c m p ∧ bitAt m (8 * p + hdrBits c + cellIndex c m p k) = true := by
  have h : cellIndex c m p k ∈ setPositions (cellMaskAt c m p) := by
    unfold cellIndex; apply getD_mem_of_lt; exact hk
  generalize cellIndex c m p k = q at *
  rw [mem_setPositions] at h
  obtain ⟨h1, h2⟩ := h
  rw [cellMaskAt_bit c m p q hn h1] at h2
  simpa using h2

/-- The mask indexes of the cells are the marked ones. -/
theorem cellIndexes_eq (c : MsmCfg) (m : Memory) (p : Nat) :
    (List.range (nCell c m p)).map (cellIndex c m p) = setPositions (cellMaskAt c m p) := map_range_getD _

/-- A mask index as satellite and signal (R218). -/
theorem div_mod_of_lt_mul {n k q : Nat} (h : q < n * k) : q / k < n ∧ q % k < k ∧ q / k * k + q % k = q := by
  have hk : 0 < k := by rcases Nat.eq_zero_or_pos k with h0 | h0; simp [h0] at h; exact h0
  exact ⟨Nat.div_lt_of_lt_mul (by rw [mul_comm]; exact h), Nat.mod_lt _ hk, Nat.div_add_mod' _ _⟩

/-- `MSMDEC` on operands that name a record that decodes (R200 step 10). -/
theorem msmdec_of_decodes {s : State} {sys z x p l g} (h : MsmDecodes s sys z x p l g) :
    exec (.msmdec sys z x p l) s = .next { s with res0 := 1, mvalid := true, lastErr := none, msm := msmFileOf s.cfg.msm s.buf g (variantOf x) p.toNat, events := s.events ++ [.msg (protoId s.cfg.proto) (msmFileOf s.cfg.msm s.buf g (variantOf x) p.toNat).hdr.msgnum (msmFileOf s.cfg.msm s.buf g (variantOf x) p.toNat)] } := by
  obtain ⟨h1, h2, h3, h4⟩ := h
  simp only [exec, execMsmdec, h1]
  rw [if_pos ⟨h2, by simpa [spanInBuf] using h3⟩]
  unfold msmRun; rw [h4]; rfl

end Sys2Proof.Machine
end

