-- ==== Sys2Proof/Laws/PerInstr.lean ====
section
/-! SUPPORT. Statements made per instruction. Family `TableRow`: the encoder's `CMD` word is the row of
spec/opcode_table.json that the constructor stands for, `CMD & mask = match`. -/

namespace Sys2Proof.Laws.TableRow

/-- The `match` and `mask` of a constructor's row, as opcode_table.json has them. -/
def row : Instr → Word × Word
  | .nop             => (0x00000000, 0xFF000000)
  | .stat            => (0x01000000, 0xFF000000)
  | .reset           => (0x02000000, 0xFF000000)
  | .getr _          => (0x03000000, 0xFF000000)
  | .rdu _           => (0x10000000, 0xFF000000)
  | .rds _           => (0x11000000, 0xFF000000)
  | .wru _ _         => (0x12000000, 0xFF000000)
  | .wrs _ _         => (0x13000000, 0xFF000000)
  | .seek _          => (0x14000000, 0xFF000000)
  | .tell            => (0x15000000, 0xFF000000)
  | .bufrd _         => (0x16000000, 0xFF000000)
  | .bufwr _ _       => (0x17000000, 0xFF000000)
  | .ckcCrc24q _ _   => (0x20000000, 0xFFFF0000)
  | .ckcCrc32 _ _    => (0x20010000, 0xFFFF0000)
  | .ckcFlet _ _     => (0x20020000, 0xFFFF0000)
  | .ckcXor _ _      => (0x20030000, 0xFFFF0000)
  | .ckcHam _        => (0x20040000, 0xFFFF0000)
  | .ckvCrc24q _ _ _ => (0x21000000, 0xFFFF0000)
  | .ckvCrc32 _ _ _  => (0x21010000, 0xFFFF0000)
  | .ckvFlet _ _ _   => (0x21020000, 0xFFFF0000)
  | .ckvXor _ _ _    => (0x21030000, 0xFFFF0000)
  | .ckvHam _ _      => (0x21040000, 0xFFFF0000)
  | .hamdec _        => (0x22000000, 0xFF000000)
  | .push _          => (0x30000000, 0xFF000000)
  | .msmdec _ _ _ _ _ => (0x40000000, 0xFF000000)
  | .msmrd _ _       => (0x41000000, 0xFF000000)

/-- The encoder writes the fixed bits of the constructor's row. -/
def Statement (i : Instr) : Prop := (encode i).cmd &&& (row i).2 = (row i).1

/-- Rows that `OP` alone selects. -/
theorem row_of_op (op w : BitVec 8) (a : BitVec 16) (r : Word) (h : op ++ (0 : BitVec 24) = r) :
    ((op ++ w ++ a : BitVec 32) &&& 0xFF000000#32) = r := by
  subst h
  ext k hk
  simp only [BitVec.getElem_and, BitVec.getElem_append]
  interval_cases k <;> simp

/-- Rows that `OP` and `W` select. -/
theorem row_of_op_w (op w : BitVec 8) (a : BitVec 16) (r : Word) (h : op ++ w ++ (0 : BitVec 16) = r) :
    ((op ++ w ++ a : BitVec 32) &&& 0xFFFF0000#32) = r := by
  subst h
  ext k hk
  simp only [BitVec.getElem_and, BitVec.getElem_append]
  interval_cases k <;> simp

theorem nop : Statement .nop := row_of_op 0x00 _ _ 0x00000000 (by decide)
theorem stat : Statement .stat := row_of_op 0x01 _ _ 0x01000000 (by decide)
theorem reset : Statement .reset := row_of_op 0x02 _ _ 0x02000000 (by decide)
theorem getr (reg) : Statement (.getr reg) := row_of_op 0x03 _ _ 0x03000000 (by decide)
theorem rdu (w) : Statement (.rdu w) := row_of_op 0x10 _ _ 0x10000000 (by decide)
theorem rds (w) : Statement (.rds w) := row_of_op 0x11 _ _ 0x11000000 (by decide)
theorem wru (w v) : Statement (.wru w v) := row_of_op 0x12 _ _ 0x12000000 (by decide)
theorem wrs (w v) : Statement (.wrs w v) := row_of_op 0x13 _ _ 0x13000000 (by decide)
theorem seek (pos) : Statement (.seek pos) := row_of_op 0x14 _ _ 0x14000000 (by decide)
theorem tell : Statement .tell := row_of_op 0x15 _ _ 0x15000000 (by decide)
theorem bufrd (idx) : Statement (.bufrd idx) := row_of_op 0x16 _ _ 0x16000000 (by decide)
theorem bufwr (idx b) : Statement (.bufwr idx b) := row_of_op 0x17 _ _ 0x17000000 (by decide)
theorem ckcCrc24q (a l) : Statement (.ckcCrc24q a l) := row_of_op_w 0x20 0x00 _ 0x20000000 (by decide)
theorem ckcCrc32 (a l) : Statement (.ckcCrc32 a l) := row_of_op_w 0x20 0x01 _ 0x20010000 (by decide)
theorem ckcFlet (a l) : Statement (.ckcFlet a l) := row_of_op_w 0x20 0x02 _ 0x20020000 (by decide)
theorem ckcXor (a l) : Statement (.ckcXor a l) := row_of_op_w 0x20 0x03 _ 0x20030000 (by decide)
theorem ckcHam (x) : Statement (.ckcHam x) := row_of_op_w 0x20 0x04 _ 0x20040000 (by decide)
theorem ckvCrc24q (a l e) : Statement (.ckvCrc24q a l e) := row_of_op_w 0x21 0x00 _ 0x21000000 (by decide)
theorem ckvCrc32 (a l e) : Statement (.ckvCrc32 a l e) := row_of_op_w 0x21 0x01 _ 0x21010000 (by decide)
theorem ckvFlet (a l e) : Statement (.ckvFlet a l e) := row_of_op_w 0x21 0x02 _ 0x21020000 (by decide)
theorem ckvXor (a l e) : Statement (.ckvXor a l e) := row_of_op_w 0x21 0x03 _ 0x21030000 (by decide)
theorem ckvHam (x e) : Statement (.ckvHam x e) := row_of_op_w 0x21 0x04 _ 0x21040000 (by decide)
theorem hamdec (x) : Statement (.hamdec x) := row_of_op 0x22 _ _ 0x22000000 (by decide)
theorem push (b) : Statement (.push b) := row_of_op 0x30 _ _ 0x30000000 (by decide)
theorem msmdec (sys z x p l) : Statement (.msmdec sys z x p l) := row_of_op 0x40 _ _ 0x40000000 (by decide)
theorem msmrd (sel idx) : Statement (.msmrd sel idx) := row_of_op 0x41 _ _ 0x41000000 (by decide)

end Sys2Proof.Laws.TableRow
end

