-- ==== Sys2Proof/Machine/HostFormulas.lean ====
section
/-! DEFINITION. The formulas a host applies to the integer results of `MSMDEC`, as exact rationals
(spec 00_scope.md R12; 43_msm.md R224 to R230). No command of the block uses them. -/

namespace Sys2Proof.Machine

/-- Full pseudorange in milliseconds, `C_PRQ * 2^-31`, where it exists (R224). -/
def pseudorangeMs (e : CellEntry) : Option Rat := if e.prv then some ((e.prq.toInt : Rat) / 2 ^ 31) else none

/-- Full pseudorange in metres, `C_PRQ * 2^-31 * 10^-3 * C_LIGHT` (R224). -/
def pseudorangeMetres (c : MsmCfg) (e : CellEntry) : Option Rat :=
  (pseudorangeMs e).map (fun r => r / 1000 * (c.cLight : Rat))

/-- The GLONASS channel number of `S_EXT` (R230): `S_EXT - 7`, unknown for 15. -/
def channelNumber (c : MsmCfg) (ext : BitVec 4) : Option Int :=
  if ext.toNat = c.fcnUnknown then none else some ((ext.toNat : Int) - (c.fcnBias : Int))

/-- Carrier phase in cycles, `C_CPQ * 2^-31 * 10^-3 * SIGFREQ` (R225): the speed of light cancels. -/
def phaseCycles (sys : GnssSys) (fcn : Option Int) (e : CellEntry) : Option Rat :=
  if e.cpv then some ((e.cpq.toInt : Rat) / 2 ^ 31 / 1000 * Sys2Proof.Config.sigFreq sys e.sigid.toNat fcn) else none

/-- Phase-range-rate in m/s (R226). -/
def rangeRate (e : CellEntry) : Option Rat := if e.rrv then some ((e.rrq.toInt : Rat) / 10 ^ 4) else none

/-- CNR in the unit of R227. -/
def cnrValue (e : CellEntry) : Rat := (e.cnrq.toNat : Rat) / 2 ^ 4

/-- Lock time (R228). -/
def lockTime (x : Variant) (e : CellEntry) : Rat := Sys2Proof.Config.lockMap x e.lock.toNat

end Sys2Proof.Machine
end

