-- ==== Sys2Proof/Tests/Slice0.lean ====
section
/-! SUPPORT. Tests: the refusal of ill-formed operands, decoding of words written out from the encodings, one step of
each command on the vectors of 95_test_vectors.md (named in each docstring), and for every obligation with hypotheses a
concrete state and operands that meet them. -/

namespace Sys2Proof.Tests

set_option Elab.async false

open Sys2Proof Sys2Proof.Machine

/-- "Instance X/n" after hardware reset. -/
def inst (p : Proto) (n : BitVec 17) : State := State.resetWith (instanceOf p n)

/-- Bytes from numbers. -/
def bytes (l : List Nat) : List Byte := l.map (BitVec.ofNat 8)

/-- A state with bytes stored from index `a` on. -/
def fill (s : State) (a : Nat) (l : List Nat) : State := { s with buf := memWrite s.buf a (bytes l) }

/-- What `f` sees of a next state. -/
def after {α : Type} (o : Out) (f : State → α) : Option α :=
  match o with
  | .next s    => some (f s)
  | .fault _   => none
  | .refused _ => none

/-! ### Well-formedness (R73, R79, R231): one ill-formed term for each check, and the bounds that pass -/

theorem test_wf_getr : (Instr.getr 0x10).wf = false ∧ (Instr.getr 0x0F).wf = true := by decide

theorem test_wf_width_zero :
    (Instr.rdu 0).wf = false ∧ (Instr.rds 0).wf = false ∧ (Instr.wru 0 0).wf = false ∧ (Instr.wrs 0 0).wf = false := by
  decide

theorem test_wf_width_large :
    (Instr.rdu 33).wf = false ∧ (Instr.rds 33).wf = false ∧ (Instr.wru 33 0).wf = false ∧
      (Instr.wrs 255 0).wf = false := by
  decide

theorem test_wf_width_bounds :
    (Instr.rdu 1).wf = true ∧ (Instr.rdu 32).wf = true ∧ (Instr.rds 1).wf = true ∧ (Instr.rds 32).wf = true ∧
      (Instr.wru 32 0).wf = true ∧ (Instr.wrs 1 0).wf = true := by
  decide

theorem test_wf_msmdec :
    (Instr.msmdec 6 0 0 0 0).wf = false ∧ (Instr.msmdec 0 1 0 0 0).wf = false ∧ (Instr.msmdec 5 0 1 0 0).wf = true := by
  decide

theorem test_wf_msmrd :
    (Instr.msmrd 0x14 0).wf = false ∧ (Instr.msmrd 0x1F 0).wf = false ∧ (Instr.msmrd 0x28 0).wf = false ∧
      (Instr.msmrd 0x4D 0).wf = false ∧ (Instr.msmrd 0x4E 0).wf = false ∧ (Instr.msmrd 0x50 0).wf = false ∧
      (Instr.msmrd 0x13 0).wf = true ∧ (Instr.msmrd 0x27 0).wf = true ∧ (Instr.msmrd 0x4F 0).wf = true := by
  decide

/-! ### Decoding: one word of every constructor, written out from R70 and R74 -/

/-- E1, E2, K, P1 of the vectors. -/
theorem test_decode_system :
    decode ⟨0x00000000, 0, 0⟩ = .ok .nop ∧ decode ⟨0x00FFFFFF, 0xFFFFFFFF, 0xFFFFFFFF⟩ = .ok .nop ∧
      decode ⟨0x01000000, 0, 0⟩ = .ok .stat ∧ decode ⟨0x02000000, 0, 0⟩ = .ok .reset ∧
      decode ⟨0x030B0000, 0, 0⟩ = .ok (.getr 0x0B) ∧ decode ⟨0x03100000, 0, 0⟩ = .ok (.getr 0x10) := by
  decide

/-- E3, E4, E5, P1, P2, P5. -/
theorem test_decode_bit_fields :
    decode ⟨0x100C0000, 0, 0⟩ = .ok (.rdu 12) ∧ decode ⟨0x11020000, 0, 0⟩ = .ok (.rds 2) ∧
      decode ⟨0x12200000, 0x4166E5EC, 0⟩ = .ok (.wru 32 0x4166E5EC) ∧
      decode ⟨0x13060000, 0xFFFFFFE3, 0⟩ = .ok (.wrs 6 0xFFFFFFE3) ∧
      decode ⟨0x14000000, 0x18, 0⟩ = .ok (.seek 0x18) ∧ decode ⟨0x15000000, 0, 0⟩ = .ok .tell ∧
      decode ⟨0x16000001, 0, 0⟩ = .ok (.bufrd 1) ∧ decode ⟨0x17000010, 0x000001FF, 0⟩ = .ok (.bufwr 16 0xFF) := by
  decide

/-- K, P1, P5; the algorithm code is `W`. -/
theorem test_decode_checksums :
    decode ⟨0x20000000, 0x25, 0⟩ = .ok (.ckcCrc24q 0 0x25) ∧ decode ⟨0x2001000A, 0x37, 0⟩ = .ok (.ckcCrc32 10 55) ∧
      decode ⟨0x20020002, 6, 0⟩ = .ok (.ckcFlet 2 6) ∧ decode ⟨0x20030001, 0x39, 0⟩ = .ok (.ckcXor 1 57) ∧
      decode ⟨0x20040000, 0x19BE8480, 0⟩ = .ok (.ckcHam 0x19BE8480) := by
  decide

theorem test_decode_verifies :
    decode ⟨0x21000000, 0x22, 0x00ECBD40⟩ = .ok (.ckvCrc24q 0 34 0xECBD40) ∧
      decode ⟨0x21010000, 15, 0xD72F0108⟩ = .ok (.ckvCrc32 0 15 0xD72F0108) ∧
      decode ⟨0x21020002, 6, 0xFFFF0F38⟩ = .ok (.ckvFlet 2 6 0x0F38) ∧
      decode ⟨0x21030001, 0x39, 0x00003444⟩ = .ok (.ckvXor 1 57 0x3444) ∧
      decode ⟨0x21040000, 0x19BE8480, 0x24⟩ = .ok (.ckvHam 0x19BE8480 0x24) ∧
      decode ⟨0x22000000, 0x19BE84A4, 0⟩ = .ok (.hamdec 0x19BE84A4) := by
  decide

/-- E6, E9, M1, M4, M8. -/
theorem test_decode_framer_and_msm :
    decode ⟨0x3000FFD3, 0, 0⟩ = .ok (.push 0xD3) ∧ decode ⟨0x40000000, 3, 0x2D⟩ = .ok (.msmdec 0 0 0 3 45) ∧
      decode ⟨0x40110000, 0, 0x2E⟩ = .ok (.msmdec 1 0 1 0 46) ∧ decode ⟨0x40510000, 0, 0x1E⟩ = .ok (.msmdec 5 0 1 0 30) ∧
      decode ⟨0x40020000, 0, 0⟩ = .ok (.msmdec 0 1 0 0 0) ∧ decode ⟨0x414F0001, 0, 0⟩ = .ok (.msmrd 0x4F 1) := by
  decide

/-- E7, and `CKC` with `W = 5`. -/
theorem test_decode_reserved :
    decode ⟨0x04000000, 0, 0⟩ = .error (.reservedOpcode 0x04) ∧ decode ⟨0x18000000, 0, 0⟩ = .error (.reservedOpcode 0x18) ∧
      decode ⟨0x23000000, 0, 0⟩ = .error (.reservedOpcode 0x23) ∧ decode ⟨0x31000000, 0, 0⟩ = .error (.reservedOpcode 0x31) ∧
      decode ⟨0x42000000, 0, 0⟩ = .error (.reservedOpcode 0x42) ∧ decode ⟨0xFF000000, 0, 0⟩ = .error (.reservedOpcode 0xFF) ∧
      decode ⟨0x20050000, 0, 0⟩ = .error (.reservedAlgorithm 0x20 5) := by
  decide

/-- `CMD` is the first word: the low 32 bits of the table's numbering, `ARG0` the next, `ARG1` the third. -/
theorem test_decode_table_word :
    decodeTableWord 96 0x00ECBD400000002221000000 = some (.ckvCrc24q 0 34 0xECBD40) ∧
      decodeTableWord 32 0x100C0000 = some (.rdu 12) ∧ decodeTableWord 96 0x04000000 = none := by
  decide

/-! ### One step of each command -/

/-- The buffer of the B table (section 2). -/
def bTable : State := fill (inst .rtcm3 1029) 0 [0xFF, 0x80, 0x01, 0x7F, 0xFE]

/-- STAT after any refused command (section 7), and P5 step 4. -/
theorem test_stat :
    after (exec .stat { inst .rtcm3 1029 with ill := true }) (·.res0) = some 0x00000010 ∧
      after (exec .stat { inst .nmea 128 with phase := .tbody, cnt := 3 }) (·.res0) = some 0x00004000 := by
  decide

/-- P5 step 5. -/
theorem test_reset :
    after (exec .reset { inst .nmea 128 with phase := .tbody, cnt := 3, done := true, bitoff := 9 })
      (fun t => (t.phase, t.cnt, t.done, t.events, t.bitoff)) = some (.sync, 0, false, [], 9) := by
  decide

/-- Section 7: `GETR 0x0E` on a UBX instance; E8. -/
theorem test_getr :
    after (exec (.getr 0x0E) (inst .ubx 256)) (·.res0) = some 2 ∧
      after (exec (.getr 0x10) (inst .ubx 256)) (fun t => (t.res0, t.ill)) = some (0, true) := by
  decide

/-- B5 as a command, and B7. -/
theorem test_rdu :
    after (exec (.rdu 15) { bTable with bitoff := 9 }) (fun t => (t.res0, t.bitoff)) = some (1, 24) ∧
      after (exec (.rdu 32) { bTable with bitoff := 1 }) (·.res0) = some 0xFF0002FF := by
  decide +kernel

/-- Section 2, refused: `RDU 0`, `RDU 33`. -/
theorem test_rdu_refused :
    after (exec (.rdu 0) bTable) (fun t => (t.ill, t.bitoff, t.res0)) = some (true, 0, 0) ∧
      after (exec (.rdu 33) bTable) (fun t => (t.ill, t.bitoff, t.res0)) = some (true, 0, 0) := by
  decide

/-- B3 as a command, and B4. -/
theorem test_rds :
    after (exec (.rds 2) { bTable with bitoff := 7 }) (fun t => (t.res0, t.bitoff)) = some (0xFFFFFFFF, 9) ∧
      after (exec (.rds 8) { bTable with bitoff := 8 }) (·.res0) = some 0xFFFFFF80 := by
  decide +kernel

/-- B9, B13. -/
theorem test_wru :
    after (exec (.wru 10 0x2AB) { fill (inst .rtcm3 1029) 0 [0, 0, 0] with bitoff := 3 })
        (fun t => (memRead t.buf 0 3, t.bitoff)) = some ([0x15, 0x58, 0x00], 13) ∧
      after (exec (.wru 4 0x1F) (fill (inst .rtcm3 1029) 0 [0])) (fun t => memRead t.buf 0 1) = some [0xF0] := by
  decide +kernel

/-- B10. -/
theorem test_wrs :
    after (exec (.wrs 5 0xFFFFFFFD) { fill (inst .rtcm3 1029) 0 [0x15, 0x58, 0x00] with bitoff := 13, fvalid := true })
      (fun t => (memRead t.buf 0 3, t.bitoff, t.fvalid)) = some ([0x15, 0x5F, 0x40], 18, false) := by
  decide +kernel

/-- Section 2, cursor. -/
theorem test_seek_tell :
    after (exec (.seek 0xFFFFFFFF) bTable) (·.bitoff) = some 0xFFFFFFFF ∧
      after (exec .tell { bTable with bitoff := 0xFFFFFFFF }) (·.res0) = some 0xFFFFFFFF := by
  decide

/-- Section 2: `BUFRD 2`, and `BUFWR 2, 0x1234`, which decodes with the byte `0x34`. -/
theorem test_bufrd_bufwr :
    after (exec (.bufrd 2) bTable) (·.res0) = some 0x01 ∧
      decode ⟨0x17000002, 0x1234, 0⟩ = .ok (.bufwr 2 0x34) ∧
      after (exec (.bufwr 2 0x34) bTable) (fun t => memRead t.buf 0 5) = some [0xFF, 0x80, 0x34, 0x7F, 0xFE] := by
  decide

/-- K1. -/
theorem test_ckc_crc24q :
    after (exec (.ckcCrc24q 0 3) (fill (inst .rtcm3 1029) 0 [0xD3, 0, 0])) (·.res0) = some 0x0047EA4B := by
  decide +kernel

/-- K6. -/
theorem test_ckc_crc32 :
    after (exec (.ckcCrc32 0 3) (fill (inst .bin 256) 0 [0xAA, 0x44, 0x12])) (·.res0) = some 0xB34323FF := by
  decide +kernel

/-- K8, K10. -/
theorem test_ckc_flet :
    after (exec (.ckcFlet 2 6) (fill (inst .ubx 256) 2 [5, 1, 2, 0, 6, 1])) (·.res0) = some 0x00000F38 ∧
      after (exec (.ckcFlet 0 3) (fill (inst .ubx 256) 0 [0xFF, 0xFF, 0xFF])) (·.res0) = some 0x0000FDFA := by
  decide +kernel

/-- F19: the body "AIVDM,1" renders as "4A". -/
theorem test_ckc_xor :
    after (exec (.ckcXor 1 7) (fill (inst .nmea 128) 1 [0x41, 0x49, 0x56, 0x44, 0x4D, 0x2C, 0x31]))
      (fun t => (t.res0, t.res1)) = some (0x4A, 0x3441) := by
  decide +kernel

/-- K13. -/
theorem test_ckc_ham :
    after (exec (.ckcHam 0x19BE8480) (inst .legacy 128)) (·.res0) = some 0x24 ∧
      after (exec (.ckcHam 0x66417B40) (inst .legacy 128)) (·.res0) = some 0x32 := by
  decide +kernel

/-- K1 and K6 as verifications. -/
theorem test_ckv_crc :
    after (exec (.ckvCrc24q 0 3 0x47EA4B) (fill (inst .rtcm3 1029) 0 [0xD3, 0, 0])) (fun t => (t.res0, t.vok)) = some (1, true) ∧
      after (exec (.ckvCrc24q 0 3 0x47EA4A) (fill (inst .rtcm3 1029) 0 [0xD3, 0, 0])) (fun t => (t.res0, t.vok)) =
        some (0, false) ∧
      after (exec (.ckvCrc32 0 3 0xB34323FF) (fill (inst .bin 256) 0 [0xAA, 0x44, 0x12])) (fun t => (t.res0, t.vok)) =
        some (1, true) := by
  decide +kernel

/-- K9 as a verification, K12 in the small (F19's body, and its lower-case rendering), K13. -/
theorem test_ckv_others :
    after (exec (.ckvFlet 0 7 0x001A) (fill (inst .ubx 256) 0 [6, 1, 3, 0, 0xF0, 5, 1])) (fun t => (t.res0, t.vok)) =
        some (1, true) ∧
      after (exec (.ckvXor 1 7 0x3441) (fill (inst .nmea 128) 1 [0x41, 0x49, 0x56, 0x44, 0x4D, 0x2C, 0x31]))
        (fun t => (t.res0, t.vok)) = some (1, true) ∧
      after (exec (.ckvXor 1 7 0x3461) (fill (inst .nmea 128) 1 [0x41, 0x49, 0x56, 0x44, 0x4D, 0x2C, 0x31]))
        (fun t => (t.res0, t.vok)) = some (0, false) ∧
      after (exec (.ckvHam 0x19BE8480 0x24) (inst .legacy 128)) (fun t => (t.res0, t.vok)) = some (1, true) := by
  decide +kernel

/-- K14, both forms of one word; K15 (K16's third word needs its two carried bits: log entry 13). -/
theorem test_hamdec :
    after (exec (.hamdec 0x19BE84A4) (inst .legacy 128)) (fun t => (t.res0, t.vok)) = some (0x0066FA12, true) ∧
      after (exec (.hamdec 0x66417B72) (inst .legacy 128)) (fun t => (t.res0, t.vok)) = some (0x0066FA12, true) ∧
      after (exec (.hamdec 0xD50C8419) (inst .legacy 128)) (·.res0) = some 0x00ABCDEF ∧
      after (exec (.hamdec 0x19BE8424) (inst .legacy 128)) (fun t => (t.res0, t.vok)) = some (0, false) := by
  decide +kernel

/-- F1 before its last byte. -/
def f1Last : State :=
  { fill (inst .rtcm3 1029) 0 [0xD3, 0x00, 0x00, 0x47, 0xEA] with phase := .check, cnt := 5, hlen := 3 }

/-- F22 before its last byte, by the trace of section 5. -/
def f22Last : State :=
  { fill (inst .legacy 128) 0 [0x66, 0x04, 0x05, 0x03, 0x22, 0x08] with
    phase := .ldata, cnt := 6, nbit := 24, word := 0x2F543210, hlen := 6, plen := 3 }

/-- F17 before its LF. -/
def f17Last : State :=
  { fill (inst .nmea 128) 0 [0x24, 0x2A, 0x30, 0x30, 0x0D] with phase := .tend, cnt := 5, star := 1 }

/-- ASTERIX with `AST_CAT = 48`, as F14 to F16. -/
def astCfg : Cfg := { instanceOf .asterix 256 with astCat := some 0x30 }

/-- F15 before its third byte. -/
def f15Last : State :=
  { fill (State.resetWith astCfg) 0 [0x30, 0x00] with phase := .header, cnt := 2 }

/-- The last step of F1, F15, F17, F22: the FRAME events. -/
theorem test_push_frames :
    after (exec (.push 0x4B) f1Last) (fun t => (t.events, t.phase, t.cnt, t.fvalid)) =
        some ([.frame 0 (.num 1150) [0xD3, 0x00, 0x00, 0x47, 0xEA, 0x4B] 3 0], .sync, 0, true) ∧
      after (exec (.push 0x03) f15Last) (·.events) = some [.frame 5 (.num 48) [0x30, 0x00, 0x03] 3 0] ∧
      after (exec (.push 0x0A) f17Last) (·.events) =
        some [.frame 3 (.str []) [0x24, 0x2A, 0x30, 0x30, 0x0D, 0x0A] 1 0] ∧
      after (exec (.push 0x66) f22Last) (fun t => (t.events, t.word)) =
        some ([.frame 4 (.num 1) [0x66, 0x04, 0x05, 0x03, 0x22, 0x08, 0xAB, 0xCD, 0xEF] 6 3], 1) := by
  decide +kernel

/-- F3's shape (a wrong last byte), F4, F6, F16. -/
theorem test_push_errors :
    after (exec (.push 0x4A) f1Last) (fun t => (t.events, statusWord t, t.res0)) =
        some ([.err .checksum 0 none], 0x00000300, 0) ∧
      after (exec (.push 0x3B) { fill (inst .rtcm3 64) 0 [0xD3, 0x00] with phase := .header, cnt := 2 })
        (fun t => (t.events, t.phase)) = some ([.err .size 0 none], .sync) ∧
      after (exec (.push 0x41) (inst .rtcm3 1029)) (fun t => (t.events, t.cnt, t.buf)) = some ([], 0, []) ∧
      after (exec (.push 0x02) f15Last) (fun t => (t.events, t.phase, t.cnt)) = some ([], .sync, 0) := by
  decide +kernel

/-- The payload of M1 at `BUF[3 .. 48)`. -/
def m1 : State :=
  fill (inst .rtcm3 1029) 3 [0x43, 0x24, 0xD2, 0x52, 0x65, 0xC0, 0x01, 0x40, 0x35, 0x90, 0x00, 0x40, 0x00, 0x00, 0x00, 0x00,
    0x00, 0x20, 0x01, 0x00, 0x00, 0x72, 0x37, 0xFC, 0x00, 0x32, 0x00, 0x64, 0x80, 0x00, 0x00, 0x17, 0xFF, 0xF3, 0x80, 0x00,
    0xFA, 0x00, 0x00, 0x06, 0x7F, 0x15, 0x6B, 0xD9, 0x00]

/-- The payload of M4. -/
def m4 : State :=
  fill (inst .rtcm3 1029) 0 [0x43, 0xF0, 0x07, 0x6A, 0x4C, 0xB8, 0x02, 0x00, 0x00, 0x40, 0x00, 0x00, 0x00, 0x00, 0x00, 0x00,
    0x00, 0x30, 0x00, 0x00, 0x00, 0x68, 0x50, 0x00, 0xFF, 0x39, 0x00, 0x00, 0x0F, 0xFF, 0xFE, 0xFF, 0xFF, 0xFF, 0x00, 0x00,
    0x00, 0x96, 0x00, 0x15, 0x78, 0x00, 0x40, 0x00, 0x09, 0xA4]

/-- The second payload of M3. -/
def m3 : State :=
  fill (inst .rtcm3 1029) 0 [0x46, 0x40, 0x00, 0x00, 0x00, 0x00, 0x00, 0x00, 0x00, 0x00, 0x00, 0x00, 0x00, 0x00, 0x00, 0x00,
    0x00, 0x80, 0x00, 0x00, 0x00, 0xC0, 0x00, 0x5F, 0xFF, 0xFF, 0xFF, 0xFF, 0x80, 0x10]

/-- `MSMDEC.C GPS, 3, 45` on M1. -/
def m1Done : Out := exec (.msmdec 0 0 0 3 45) m1

/-- `MSMDEC.X GLO, 0, 46` on M4. -/
def m4Done : Out := exec (.msmdec 1 0 1 0 46) m4

/-- M1: the satellite and cell tables. -/
theorem test_msmdec_compact :
    after m1Done (fun t => (t.res0, t.mvalid)) = some (1, true) ∧
      after m1Done (fun t => t.msm.sats.map (fun e => (e.id, e.roughq))) = some [(3, 72192), (17, 0)] ∧
      after m1Done (fun t => t.msm.cells.map (fun e => (e.sat, e.sigid))) = some [(0, 2), (0, 15), (1, 2)] ∧
      after m1Done (fun t => t.msm.cells.map (fun e => (e.prq, e.cpq, e.cnrq))) =
        some [(151397609984, 151397596384, 720), (0, 151397601184, 480), (0, 0, 800)] := by
  decide +kernel

/-- M4: sentinels and the rate in the extended variant. -/
theorem test_msmdec_extended :
    after m4Done (fun t => (t.msm.hdr.dow, t.msm.hdr.epoch, t.msm.hdr.bits)) = some (3, 43200000, 367) ∧
      after m4Done (fun t => t.msm.sats.map (fun e => (e.roughq, e.ext, e.rr, e.rrv))) =
        some [(67585, 8, BitVec.ofInt 14 (-100), true)] ∧
      after m4Done (fun t => t.msm.cells.map (fun e => (e.prq, e.cpq))) =
        some [(0, 141744406527), (141738115068, 0)] ∧
      after m4Done (fun t => t.msm.cells.map (fun e => (e.prv, e.rrv, e.rrq))) =
        some [(false, false, 0), (true, true, BitVec.ofInt 32 (-998766))] := by
  decide +kernel

/-- M8 on the cells of M1: a 64-bit element, a signed one, the flags, and two refusals. -/
theorem test_msmrd :
    after m1Done (fun t => after (exec (.msmrd 0x42 0) t) (fun u => (u.res1, u.res0))) =
        some (some (0x00000023, 0x40003200)) ∧
      after m1Done (fun t => after (exec (.msmrd 0x47 1) t) (·.res0)) = some (some 0xFFFFC000) ∧
      after m1Done (fun t => after (exec (.msmrd 0x4F 1) t) (·.res0)) = some (some 0xA) ∧
      after m1Done (fun t => after (exec (.msmrd 0x42 3) t) (·.ill)) = some (some true) ∧
      after (exec (.msmrd 0x0E 0) m1) (·.ill) = some true := by
  decide +kernel

/-! ### For every statement with hypotheses, a state and operands that meet them

One theorem a statement; where a statement has several clauses, one conjunct for each, at a boundary of its range. -/

/-- A packet from numbers. -/
def pk (cmd arg0 arg1 : Nat) : Packet := ⟨BitVec.ofNat 32 cmd, BitVec.ofNat 32 arg0, BitVec.ofNat 32 arg1⟩

/-- RTCM3 with the capacity of R7. -/
def rtcm : State := inst .rtcm3 1029

theorem witness_ReservedPacketsExactly :
    (∃ e, decode (pk 0x04000000 0 0) = .error e) ∧ (pk 0x04000000 0 0).op = 0x04 ∧
      (∃ e, decode (pk 0x21050000 0 0) = .error e) ∧ (pk 0x21050000 0 0).op = 0x21 ∧ (pk 0x21050000 0 0).w = 5 :=
  ⟨⟨_, rfl⟩, by decide, ⟨_, rfl⟩, by decide, by decide⟩

theorem witness_UnreadPacketPartsIgnored :
    (pk 0 0 0).op = (pk 0x00FFFFFF 1 2).op ∧
    ((pk 0x030F0000 0 0).op = 0x03 ∧ (pk 0x030F0000 0 0).w = (pk 0x030F1234 5 6).w) ∧
    ((pk 0x130A0000 7 0).op = 0x13 ∧ (pk 0x130A0000 7 0).w = (pk 0x130AFFFF 7 9).w) ∧
    ((pk 0x14000000 7 0).op = 0x14 ∧ (pk 0x14000000 7 0).arg0 = (pk 0x14FFFFFF 7 1).arg0) ∧
    ((pk 0x16010002 0 0).op = 0x16 ∧ (pk 0x16010002 0 0).a = (pk 0x16FF0002 1 1).a) ∧
    ((pk 0x3000FFD3 0 0).op = 0x30 ∧ (pk 0x3000FFD3 0 0).a.extractLsb' 0 8 = (pk 0x305500D3 1 1).a.extractLsb' 0 8) ∧
    ((pk 0x17000010 0x1FF 0).op = 0x17 ∧ (pk 0x17000010 0x1FF 0).a = (pk 0x17220010 0x2FF 1).a ∧
      (pk 0x17000010 0x1FF 0).arg0.extractLsb' 0 8 = (pk 0x17220010 0x2FF 1).arg0.extractLsb' 0 8) ∧
    ((pk 0x20030001 0x39 0).op = 0x20 ∧ (pk 0x20030001 0x39 0).w.toNat = 3 ∧
      (pk 0x20030001 0x39 0).a = (pk 0x20030001 0x39 5).a) ∧
    ((pk 0x21000001 0x39 4).op = 0x21 ∧ (pk 0x21000001 0x39 4).w = 0 ∧
      (pk 0x21000001 0x39 4).arg1.extractLsb' 0 24 = (pk 0x21000001 0x39 0xFF000004).arg1.extractLsb' 0 24) ∧
    ((pk 0x21010001 0x39 4).op = 0x21 ∧ (pk 0x21010001 0x39 4).w = 1) ∧
    ((pk 0x21020001 0x39 4).w = 2 ∧ (pk 0x21030001 0x39 4).w = 3 ∧
      (pk 0x21030001 0x39 4).arg1.extractLsb' 0 16 = (pk 0x21030001 0x39 0xFFFF0004).arg1.extractLsb' 0 16) ∧
    ((pk 0x20040000 9 0).w = 4 ∧ (pk 0x2004FFFF 9 7).w = 4 ∧ (pk 0x20040000 9 0).arg0 = (pk 0x2004FFFF 9 7).arg0) ∧
    ((pk 0x21040000 9 0x24).w = 4 ∧
      (pk 0x21040000 9 0x24).arg1.extractLsb' 0 6 = (pk 0x2104FFFF 9 0x64).arg1.extractLsb' 0 6) ∧
    ((pk 0x22000000 9 0).op = 0x22 ∧ (pk 0x22000000 9 0).arg0 = (pk 0x22FFFFFF 9 7).arg0) ∧
    ((pk 0x40510000 0 0x1E).op = 0x40 ∧ (pk 0x40510000 0 0x1E).w = (pk 0x4051FFFF 0 0x1E).w) ∧
    ((pk 0x41420003 0 0).op = 0x41 ∧ (pk 0x41420003 0 0).w = (pk 0x41420003 8 8).w ∧
      (pk 0x41420003 0 0).a = (pk 0x41420003 8 8).a) := by
  decide

theorem witness_StepTakesTheIssuedCommand :
    rtcm.port = [] ∧ decode (pk 0x100C0000 0 0) = .ok (.rdu 12) ∧
      decode (pk 0xFF000000 0 0) = .error (.reservedOpcode 0xFF) ∧ decodeTableWord 32 0x100C0000 = some (.rdu 12) := by
  decide

theorem witness_IllFormedOperandsAreRefused :
    (Instr.getr 0x10).wf = false ∧ (Instr.rds 33).wf = false ∧ (Instr.msmdec 6 0 0 0 0).wf = false ∧
      (Instr.msmdec 0 1 0 0 0).wf = false ∧ (Instr.msmrd 0x50 0).wf = false := by
  decide

/-- One past the last byte, one byte too many, one bit too many. -/
theorem witness_AccessOutsideTheBuffer :
    bufCapacity rtcm.cfg ≤ (1029 : BitVec 16).toNat ∧
      bufCapacity rtcm.cfg < (1000 : BitVec 16).toNat + (30 : Word).toNat ∧
      bufCapacity rtcm.cfg < (1029 : Word).toNat + (1 : Word).toNat ∧
      8 * bufCapacity rtcm.cfg < (8231 : Word).toNat + (2 : BitVec 8).toNat ∧
      8 * bufCapacity rtcm.cfg < (8201 : Word).toNat + (32 : BitVec 8).toNat := by
  decide

theorem witness_PushOnIllFormedConfigurationRefused :
    cfgWf (instanceOf .rtcm3 2) = false ∧ bufCapacity (instanceOf .rtcm3 2) < lKnownOf (instanceOf .rtcm3 2) ∧
      65536 < bufCapacity (instanceOf .rtcm3 65537) ∧ cfgWf (instanceOf .asterix 256) = false ∧
      (let c := { instanceOf .bin 256 with binSync2 := 0xAA }
       c.proto = .bin ∧ c.binSync0 = c.binSync2) := by
  decide

theorem witness_IllIsSticky :
    (∃ t, step { rtcm with port := [pk 0x3000FFD3 0 0], ill := true } = .next t) ∧
      ({ rtcm with port := [pk 0x3000FFD3 0 0], ill := true } : State).ill = true :=
  ⟨⟨_, rfl⟩, rfl⟩

theorem witness_FieldIsItsBits :
    ∀ a, 0 / 8 ≤ a → 8 * a < 0 + 8 → Memory.byteAt [(0, 0xD3#8), (1, 0x00#8)] a = Memory.byteAt [(0, 0xD3#8)] a := by
  intro a _ h
  obtain rfl : a = 0 := by omega
  rfl

theorem witness_SignedFieldIsTwosComplement :
    1 ≤ 1 ∧ bitAt [(0, 0x7F#8)] 0 = false ∧ bitAt [(0, 0x80#8)] 0 = true := by decide

theorem witness_WriteChangesOnlyItsField : (1 : Nat) < 2 ^ 1 ∧ 0xFFFFFFFF < 2 ^ 32 ∧ (3 < 4 ∨ 4 + 1 ≤ 3) := by decide

theorem witness_BitFieldLaws :
    1 ≤ 32 ∧ 0xFFFFFFFF < 2 ^ 32 ∧ (3 + 5 ≤ 8 ∨ 8 + 4 ≤ 3) ∧ (12 + 1 ≤ 8 ∨ 8 + 4 ≤ 12) := by decide

/-- A width of 0 and of 33; one bit past the end; a field that ends with the buffer. -/
theorem witness_RduReadsTheUnsignedField :
    ((0 : BitVec 8).toNat = 0 ∧ 32 < (33 : BitVec 8).toNat) ∧
      8 * bufCapacity rtcm.cfg < (8231 : Word).toNat + (2 : BitVec 8).toNat ∧
      (8200 : Word).toNat + (32 : BitVec 8).toNat ≤ 8 * bufCapacity rtcm.cfg ∧
      (8231 : Word).toNat + (1 : BitVec 8).toNat ≤ 8 * bufCapacity rtcm.cfg := by
  decide

theorem witness_RdsReadsTheSignedField :
    ((0 : BitVec 8).toNat = 0 ∧ 32 < (33 : BitVec 8).toNat) ∧
      8 * bufCapacity rtcm.cfg < (8231 : Word).toNat + (2 : BitVec 8).toNat ∧
      (8200 : Word).toNat + (32 : BitVec 8).toNat ≤ 8 * bufCapacity rtcm.cfg := by
  decide

theorem witness_WruWritesTheField :
    ((0 : BitVec 8).toNat = 0 ∧ 32 < (33 : BitVec 8).toNat) ∧
      8 * bufCapacity rtcm.cfg < (8231 : Word).toNat + (2 : BitVec 8).toNat ∧
      (8200 : Word).toNat + (32 : BitVec 8).toNat ≤ 8 * bufCapacity rtcm.cfg := by
  decide

/-- A value in the range of 5 bits, and one that is not. -/
theorem witness_WrsWritesTheField :
    (8227 : Word).toNat + (5 : BitVec 8).toNat ≤ 8 * bufCapacity rtcm.cfg ∧
      (-2 ^ (5 - 1) ≤ (0xFFFFFFF0 : Word).toInt ∧ (0xFFFFFFF0 : Word).toInt < 2 ^ (5 - 1)) ∧
      ¬ (16 : Word).toInt < 2 ^ (5 - 1) := by
  decide

theorem witness_ByteReadAndByteWrite :
    bufCapacity rtcm.cfg ≤ (1029 : BitVec 16).toNat ∧ (1028 : BitVec 16).toNat < bufCapacity rtcm.cfg := by decide

theorem witness_WideReadsGiveTheWholeField :
    (8199 : Word).toNat + 33 ≤ 8 * bufCapacity rtcm.cfg ∧ (8168 : Word).toNat + 64 ≤ 8 * bufCapacity rtcm.cfg := by
  decide

theorem witness_SystemCommandsReadTheRegisters : 0x0F < (0x10 : BitVec 8).toNat := by decide

/-- A span that ends with the buffer, and an empty one at its end. -/
theorem witness_ComputeCommandsOverASpan :
    (1000 : BitVec 16).toNat + (29 : Word).toNat ≤ bufCapacity rtcm.cfg ∧
      (1029 : BitVec 16).toNat + (0 : Word).toNat ≤ bufCapacity rtcm.cfg := by
  decide

theorem witness_VerifyCommandsOverASpan :
    (1000 : BitVec 16).toNat + (29 : Word).toNat ≤ bufCapacity rtcm.cfg ∧
      (1029 : BitVec 16).toNat + (0 : Word).toNat ≤ bufCapacity rtcm.cfg := by
  decide

/-- K14, K15. -/
theorem witness_HammingCommands :
    hampar rtcm.cfg 0x19BE84A4 = (hamNorm 0x19BE84A4).extractLsb' 0 6 ∧
      hampar rtcm.cfg 0x19BE8424 ≠ (hamNorm 0x19BE8424).extractLsb' 0 6 := by
  decide +kernel

theorem witness_CrcResidueIsZero :
    rtcm.cfg.crc24Poly = 0x1864CFB ∧ rtcm.cfg.crc24Init = 0 ∧ rtcm.cfg.crc32Poly = 0xEDB88320 ∧
      rtcm.cfg.crc32Init = 0 ∧ rtcm.cfg.crc32Xorout = 0 := by
  decide

theorem witness_FletcherAndEmptySpans : 7 < 8 ∧ rtcm.cfg.crc24Poly.getLsbD 24 = true := by decide

theorem witness_HostBuiltLegacyWordDecodes : (instanceOf .legacy 128).hamMask = hamStandard := rfl

/-- Every protocol has a well-formed instance, the smallest capacities among them. -/
theorem witness_PushAlwaysCompletes :
    cfgWf (instanceOf .rtcm3 3) = true ∧ cfgWf (instanceOf .bin 10) = true ∧ cfgWf (instanceOf .ubx 6) = true ∧
      cfgWf (instanceOf .nmea 1) = true ∧ cfgWf (instanceOf .legacy 65536) = true ∧ cfgWf astCfg = true := by
  decide

/-- UBX after one matched byte: the second, the first again, another (F9, F10). -/
theorem witness_GenericSyncSearch :
    cfgWf (instanceOf .ubx 256) = true ∧ genericOf (instanceOf .ubx 256).proto = some .ubx ∧
      (syncBytes (instanceOf .ubx 256) .ubx)[1]? = some 0x62 ∧
      ((syncBytes (instanceOf .ubx 256) .ubx)[1]? ≠ some 0xB5 ∧ (syncBytes (instanceOf .ubx 256) .ubx)[0]? = some 0xB5) ∧
      ((syncBytes (instanceOf .ubx 256) .ubx)[1]? ≠ some 0x00 ∧ (syncBytes (instanceOf .ubx 256) .ubx)[0]? ≠ some 0x00) := by
  decide

/-- F1 after one byte: `CNT + 1 < LKNOWN` is 2 < 3. -/
def f1Second : State := { fill rtcm 0 [0xD3] with phase := .header, cnt := 1 }

theorem stateInv_f1Second : StateInv f1Second := by
  simp only [StateInv, BufInv, FramerInv, FrameInv, MsmInv]
  refine ⟨by decide, ⟨by decide, by decide⟩, ?_, by decide, by decide, by decide⟩
  show GenericInv .rtcm3 f1Second
  unfold GenericInv
  decide

theorem witness_GenericByteIsStoredAtCnt :
    StateInv f1Second ∧ genericOf f1Second.cfg.proto = some .rtcm3 ∧ f1Second.phase ≠ .sync ∧
      ¬ (midSync f1Second.cfg .rtcm3 = true ∧ (syncBytes f1Second.cfg .rtcm3)[0]? = some 0xD3) ∧
      f1Second.cnt.toNat + 1 < lKnown f1Second.cfg .rtcm3 :=
  ⟨stateInv_f1Second, by decide, by decide, by decide, by decide⟩

/-- F4, F5 before their third byte. -/
def f4Last : State := { fill (inst .rtcm3 64) 0 [0xD3, 0x00] with phase := .header, cnt := 2 }

/-- F11, F13 before their tenth byte, header length `h`. -/
def f11Tenth (h : Nat) : State :=
  { fill (inst .bin 256) 0 [0xAA, 0x44, 0x12, h, 0x2A, 0, 0, 0, 3] with phase := .header, cnt := 9 }

/-- F16, F13; F4 at 65 bytes; F5 at exactly 64, F11 and F15. -/
theorem witness_GenericLengthDetermination :
    (cfgWf f15Last.cfg = true ∧ f15Last.cnt.toNat + 1 = lKnown f15Last.cfg .asterix ∧
      payloadLen f15Last.cfg (Memory.set f15Last.buf 2 0x02) .asterix < 0 ∧
      payloadLen f15Last.cfg (Memory.set f15Last.buf 2 0x03) .asterix = 0) ∧
    (cfgWf (f11Tenth 9).cfg = true ∧ (f11Tenth 9).cnt.toNat + 1 = lKnown (f11Tenth 9).cfg .bin ∧
      headerLen (f11Tenth 9).cfg (Memory.set (f11Tenth 9).buf 9 0) .bin < lKnown (f11Tenth 9).cfg .bin ∧
      lKnown (f11Tenth 12).cfg .bin ≤ headerLen (f11Tenth 12).cfg (Memory.set (f11Tenth 12).buf 9 0) .bin) ∧
    (cfgWf f4Last.cfg = true ∧ f4Last.cnt.toNat + 1 = lKnown f4Last.cfg .rtcm3 ∧
      bufCapacity f4Last.cfg <
        headerLen f4Last.cfg (Memory.set f4Last.buf 2 0x3B) .rtcm3 +
          (payloadLen f4Last.cfg (Memory.set f4Last.buf 2 0x3B) .rtcm3).toNat + ckBytes .rtcm3 ∧
      headerLen f4Last.cfg (Memory.set f4Last.buf 2 0x3A) .rtcm3 +
          (payloadLen f4Last.cfg (Memory.set f4Last.buf 2 0x3A) .rtcm3).toNat + ckBytes .rtcm3 = bufCapacity f4Last.cfg) := by
  decide +kernel

theorem stateInv_f1Last : StateInv f1Last := by
  simp only [StateInv, BufInv, FramerInv, FrameInv, MsmInv]
  refine ⟨by decide, ⟨by decide, by decide⟩, ?_, by decide, by decide, by decide⟩
  show GenericInv .rtcm3 f1Last
  unfold GenericInv
  decide

theorem stateInv_f15Last : StateInv f15Last := by
  simp only [StateInv, BufInv, FramerInv, FrameInv, MsmInv]
  refine ⟨by decide, ⟨by decide, by decide⟩, ?_, by decide, by decide, by decide⟩
  show GenericInv .asterix f15Last
  unfold GenericInv
  decide

/-- F1's last byte, good and bad, and the byte before it; F15's third byte: lengths just known, no checksum. -/
theorem witness_GenericPhaseAndCompletion :
    (StateInv f1Last ∧ genericOf f1Last.cfg.proto = some .rtcm3 ∧ f1Last.phase ≠ .sync ∧
      ¬ (midSync f1Last.cfg .rtcm3 = true ∧ (syncBytes f1Last.cfg .rtcm3)[0]? = some 0x4B)) ∧
    (lKnown f1Last.cfg .rtcm3 < f1Last.cnt.toNat + 1 ∧
      f1Last.hlen.toNat + f1Last.plen.toNat + ckBytes .rtcm3 ≤ f1Last.cnt.toNat + 1 ∧
      ckCompute f1Last.cfg (memRead (Memory.set f1Last.buf 5 0x4B) (ckStart .rtcm3) (3 + 0 - ckStart .rtcm3)) .rtcm3 =
        ckReceived (Memory.set f1Last.buf 5 0x4B) 3 .rtcm3 ∧
      ckCompute f1Last.cfg (memRead (Memory.set f1Last.buf 5 0x4A) (ckStart .rtcm3) (3 + 0 - ckStart .rtcm3)) .rtcm3 ≠
        ckReceived (Memory.set f1Last.buf 5 0x4A) 3 .rtcm3) ∧
    (({ f1Last with cnt := 4 } : State).cnt.toNat + 1 < f1Last.hlen.toNat + f1Last.plen.toNat + ckBytes .rtcm3) ∧
    (StateInv f15Last ∧ f15Last.cnt.toNat + 1 = lKnown f15Last.cfg .asterix ∧
      3 = headerLen f15Last.cfg (Memory.set f15Last.buf 2 0x03) .asterix ∧
      0 = payloadLen f15Last.cfg (Memory.set f15Last.buf 2 0x03) .asterix ∧
      3 + 0 + ckBytes .asterix ≤ f15Last.cnt.toNat + 1 ∧ ckBytes .asterix = 0) :=
  ⟨⟨stateInv_f1Last, by decide, by decide, by decide⟩, by decide +kernel, by decide,
    ⟨stateInv_f15Last, by decide +kernel⟩⟩

/-- UBX with `MIDSYNC = 1` in a payload. -/
theorem witness_MidFrameSyncByteRestarts :
    let c := { instanceOf .ubx 256 with midsyncUbx := true }
    cfgWf c = true ∧ genericOf c.proto = some .ubx ∧
      ({ State.resetWith c with phase := .payload, cnt := 7 } : State).phase ≠ .sync ∧ midSync c .ubx = true ∧
      (syncBytes c .ubx)[0]? = some 0xB5 := by
  decide

theorem witness_DescriptorsReadTheHeader : astCfg.astCat = some 0x30 := rfl

/-- S3's noise; P5's letter before a marker. -/
theorem witness_NoiseBeforeAFrameIsSkipped :
    (cfgWf rtcm.cfg = true ∧ rtcm.phase = .sync ∧ rtcm.cnt = 0 ∧
      ∀ b ∈ bytes [0x00, 0x41, 0xFF, 0x12], (syncBytes rtcm.cfg .rtcm3)[0]? ≠ some b) ∧
    (cfgWf (inst .nmea 128).cfg = true ∧ (inst .nmea 128).phase = .sync ∧
      ∀ b ∈ bytes [0x47], b ≠ 0x24 ∧ b ≠ 0x21) := by
  decide

/-- F1 in a buffer it just fills, and the frame of S3 with `D3` inside. -/
theorem witness_AnyValidRtcmFrameIsReceived :
    (cfgWf (instanceOf .rtcm3 6) = true ∧ ([] : List Byte).length = (0 : Byte).toNat % 4 * 256 + (0 : Byte).toNat ∧
      ([] : List Byte).length + 6 ≤ bufCapacity (instanceOf .rtcm3 6) ∧
      0x47EA4B = crc24q (instanceOf .rtcm3 6) [0xD3, 0, 0]) ∧
    (let payload := bytes [0x3E, 0xD0, 0xD3, 0xD3]
     payload.length = (0 : Byte).toNat % 4 * 256 + (4 : Byte).toNat ∧ 2 ≤ payload.length ∧
      0xFF2C4F = crc24q rtcm.cfg (0xD3 :: 0 :: 4 :: payload)) := by
  decide +kernel

/-- F1's last byte emits an event. -/
theorem witness_EveryEventReturnsTheFramerToSync :
    cfgWf f1Last.cfg = true ∧ (instanceOf .legacy 128).legPreamble ≠ 0 ∧
      after (exec (.push 0x4B) f1Last) (fun t => decide (t.events ≠ f1Last.events)) = some true ∧
      after (exec (.push 0x66) f22Last) (fun t => decide (t.events ≠ f22Last.events)) = some true := by
  decide +kernel

/-- An NMEA instance of 8 bytes in a phase, with `n` bytes taken. -/
def text (ph : Phase) (n : Nat) (st : Nat) : State :=
  { inst .nmea 8 with phase := ph, cnt := BitVec.ofNat 17 n, star := BitVec.ofNat 16 st }

/-- F20 for the byte that does not fit; the last byte that does. -/
theorem witness_TextMarkersAndOverflow :
    cfgWf (inst .nmea 8).cfg = true ∧ (inst .nmea 8).cfg.proto = .nmea ∧ (inst .nmea 8).phase = .sync ∧
      ((0x48 : Byte) ≠ 0x24 ∧ (0x48 : Byte) ≠ 0x21) ∧
      (∀ ph ∈ [Phase.tbody, .tck, .tend],
        bufCapacity (text ph 8 0).cfg ≤ (text ph 8 0).cnt.toNat ∧ (text ph 7 0).cnt.toNat < bufCapacity (text ph 7 0).cfg) := by
  decide

/-- `*` and another byte; the first and the second character; CR, a missing CR, a missing LF. -/
theorem witness_TextPhaseSteps :
    (∀ b ∈ ([0x2A, 0x41, 0x34, 0x0D, 0x0A] : List Byte), b ≠ 0x24 ∧ b ≠ 0x21) ∧
      ((text .tbody 3 0).cnt.toNat < bufCapacity (text .tbody 3 0).cfg ∧ (text .tbody 3 0).phase = .tbody) ∧
      ((text .tck 4 3).cnt.toNat + 1 ≠ (text .tck 4 3).star.toNat + 3 ∧
        (text .tck 5 3).cnt.toNat + 1 = (text .tck 5 3).star.toNat + 3) ∧
      ((text .tend 6 3).cnt.toNat + 1 = (text .tend 6 3).star.toNat + 4 ∧
        (if (text .tend 6 3).cnt.toNat + 1 = (text .tend 6 3).star.toNat + 4 then (0x0A : Byte) ≠ 0x0D else (0x0A : Byte) ≠ 0x0A)) ∧
      (text .tend 7 3).cnt.toNat < bufCapacity (text .tend 7 3).cfg ∧
        (if (text .tend 7 3).cnt.toNat + 1 = (text .tend 7 3).star.toNat + 4 then (0x0D : Byte) ≠ 0x0D
          else (0x0D : Byte) ≠ 0x0A) := by
  decide

/-- F17: the empty body; the same with a wrong pair. -/
theorem witness_TextCompletion :
    (cfgWf f17Last.cfg = true ∧ f17Last.cfg.proto = .nmea ∧ f17Last.phase = .tend ∧ 1 ≤ f17Last.star.toNat ∧
      f17Last.cnt.toNat + 1 = f17Last.star.toNat + 5 ∧ f17Last.cnt.toNat < bufCapacity f17Last.cfg) ∧
    (let m := Memory.set f17Last.buf 5 0x0A
     xorhex (memRead m 1 (f17Last.star.toNat - 1)) = Memory.byteAt m 2 ++ Memory.byteAt m 3) ∧
    (let m := Memory.set (Memory.set f17Last.buf 3 0x31) 5 0x0A
     xorhex (memRead m 1 (f17Last.star.toNat - 1)) ≠ Memory.byteAt m 2 ++ Memory.byteAt m 3) := by
  decide +kernel

/-- F23's skipped bytes, and F22's. -/
theorem witness_LegacyByteFilterAndFeed :
    cfgWf (inst .legacy 128).cfg = true ∧ (inst .legacy 128).cfg.proto = .legacy ∧
      (0x80 : Byte).extractLsb' 6 2 ≠ 1 ∧ (0x3F : Byte).extractLsb' 6 2 ≠ 1 ∧ (0xFF : Byte).extractLsb' 6 2 ≠ 1 ∧
      (0x66 : Byte).extractLsb' 6 2 = 1 ∧ (0x40 : Byte).extractLsb' 6 2 = 1 ∧ (0x7F : Byte).extractLsb' 6 2 = 1 := by
  decide

/-- A legacy instance collecting a word: `n` bits of it in, `k` bytes stored. -/
def legacy (cap : BitVec 17) (k n : Nat) (w : Word) (pl : BitVec 16) : State :=
  { fill (inst .legacy cap) 0 [0x66, 0x04, 0x05, 0x03, 0x22, 0x08] with
    phase := .ldata, cnt := BitVec.ofNat 17 k, nbit := BitVec.ofNat 5 n, word := w, hlen := 6, plen := pl }

/-- The words of F22 and F25, one bit short: the search that finds and the one that does not; 28 and 29 bits; a bad and
a good parity; the first words that do not fit, that fit, that are empty; a middle and a last word. -/
theorem witness_LegacyBitRules :
    ((0x19810144 : Word).toNat = ((0x0CC080A2 : Word).toNat * 2 + false.toNat) % 2 ^ 32 ∧
      (if (0x19810144 : Word).getLsbD 30 then (0x19810144 : Word).extractLsb' 22 8 ^^^ 0xFF
        else (0x19810144 : Word).extractLsb' 22 8) = (instanceOf .legacy 128).legPreamble ∧
      hamok (instanceOf .legacy 128) 0x19810144 = true) ∧
    ((if (0x00660405 : Word).getLsbD 30 then (0x00660405 : Word).extractLsb' 22 8 ^^^ 0xFF
        else (0x00660405 : Word).extractLsb' 22 8) ≠ (instanceOf .legacy 128).legPreamble) ∧
    ((legacy 128 3 28 0 0).nbit.toNat < 29 ∧ (legacy 128 3 29 0 0).nbit = 29) ∧
    (hamok (instanceOf .legacy 128) 0xD50C8418 = false) ∧
    ((0x00C8822F : Word).toNat = ((0x00644117 : Word).toNat * 2 + true.toNat) % 2 ^ 32 ∧
      hamok (instanceOf .legacy 128) 0x00C8822F = true ∧
      (Memory.byteAt (memWrite (legacy 128 3 29 0x00644117 0).buf 3 (hamBytes 0x00C8822F)) 5).toNat / 8 * 3 = 3 ∧
      bufCapacity (legacy 8 3 29 0x00644117 0).cfg < 6 + 3 ∧ 6 + 3 ≤ bufCapacity (legacy 9 3 29 0x00644117 0).cfg) ∧
    ((0x00C88039 : Word).toNat = ((0x0064401C : Word).toNat * 2 + true.toNat) % 2 ^ 32 ∧
      hamok (instanceOf .legacy 6) 0x00C88039 = true ∧ 6 ≤ bufCapacity (legacy 6 3 29 0x0064401C 0).cfg ∧
      (Memory.byteAt (memWrite (legacy 6 3 29 0x0064401C 0).buf 3 (hamBytes 0x00C88039)) 5).toNat / 8 * 3 = 0) ∧
    (hamok (instanceOf .legacy 128) 0xD50C8419 = true ∧ 6 ≤ (legacy 128 6 29 0x6A86420C 6).cnt.toNat ∧
      (legacy 128 6 29 0x6A86420C 6).cnt.toNat + 3 <
        (legacy 128 6 29 0x6A86420C 6).hlen.toNat + (legacy 128 6 29 0x6A86420C 6).plen.toNat ∧
      (legacy 128 6 29 0x6A86420C 3).hlen.toNat + (legacy 128 6 29 0x6A86420C 3).plen.toNat ≤
        (legacy 128 6 29 0x6A86420C 3).cnt.toNat + 3) := by
  decide +kernel

/-- M5: satellites 1 to 9 and signals 1 to 8, so 72 cells. -/
def m5 : State :=
  fill rtcm 0 ([0x43, 0x20, 0x00, 0x00, 0x00, 0x00, 0x00, 0x00, 0x00, 0x7F, 0xC0, 0x00, 0x00, 0x00, 0x00, 0x00, 0x00, 0x7F,
    0x80, 0x00] ++ List.replicate 31 0)

/-- `NSAT * NSIG` and `need` of the record at `BUF[p]` (R200 steps 3, 6). -/
def sizes (s : State) (x : Variant) (p : Nat) : Nat × Nat :=
  (nSat s.cfg.msm s.buf p * nSig s.cfg.msm s.buf p,
    hdrBits s.cfg.msm + nSat s.cfg.msm s.buf p * nSig s.cfg.msm s.buf p + nSat s.cfg.msm s.buf p * satBits s.cfg.msm x +
      nCell s.cfg.msm s.buf p * cellBits s.cfg.msm x)

/-- M2 and M5, one length for each failing step of R200: 21; M5's 72 cells; 22 with eight satellites and eight signals;
44 (and 22) on M1; 46 on M1. -/
theorem witness_MsmdecFailures :
    (hdrBits msmStandard = 169 ∧ 8 * 21 < 169 ∧ 169 ≤ 8 * 22) ∧
    (sizes m1 .compact 3 = (4, 353) ∧ 169 + 4 ≤ 8 * 22 ∧ 8 * 22 < 353 ∧ 8 * 44 < 353 ∧ 353 ≤ 8 * 46 ∧
      (353 + 7) / 8 ≠ 46) ∧
    (sizes m1 .extended 3 = (4, 485)) ∧
    (64 < (sizes m5 .compact 0).1) ∧
    ((sizes (fill m5 10 [0x80]) .compact 0).1 = 64 ∧ 8 * 22 < 169 + 64) ∧
    ((5 : BitVec 4).toNat ≤ 5 ∧ (3 : Word).toNat + (46 : Word).toNat ≤ bufCapacity m1.cfg) := by
  decide +kernel

/-- M1 and M4. -/
theorem witness_MsmdecSuccess :
    (sizes m1 .compact 3 = (4, 353) ∧ 4 ≤ 64 ∧ 353 ≤ 8 * 45 ∧ (353 + 7) / 8 = 45 ∧
      (3 : Word).toNat + (45 : Word).toNat ≤ bufCapacity m1.cfg) ∧
    (sizes m4 .extended 0 = (2, 367) ∧ 367 ≤ 8 * 46 ∧ (367 + 7) / 8 = 46 ∧
      (0 : Word).toNat + (46 : Word).toNat ≤ bufCapacity m4.cfg) := by
  decide +kernel

/-- M1: compact, and its `GLO` reading of M2. -/
theorem decodes_m1 : MsmDecodes m1 0 0 0 3 45 .gps ∧ MsmDecodes m1 1 0 0 3 45 .glo := by
  unfold MsmDecodes
  decide +kernel

/-- M3: BeiDou. -/
theorem decodes_m3 : MsmDecodes m3 5 0 0 0 30 .bds := by
  unfold MsmDecodes
  decide +kernel

/-- M4: extended. -/
theorem decodes_m4 : MsmDecodes m4 1 0 1 0 46 .glo := by
  unfold MsmDecodes
  decide +kernel

theorem witness_MsmHeaderFields :
    (m1.cfg.msm = msmStandard ∧ MsmDecodes m1 0 0 0 3 45 .gps) ∧ (m3.cfg.msm = msmStandard ∧ MsmDecodes m3 5 0 0 0 30 .bds) ∧
      (m4.cfg.msm = msmStandard ∧ MsmDecodes m4 1 0 1 0 46 .glo) :=
  ⟨⟨rfl, decodes_m1.1⟩, ⟨rfl, decodes_m3⟩, rfl, decodes_m4⟩

theorem witness_MsmSatellitesFollowTheMask : MsmDecodes m1 0 0 0 3 45 .gps := decodes_m1.1

/-- M1: four pairs, three of them marked. -/
theorem witness_MsmCellsFollowTheCellMask :
    MsmDecodes m1 0 0 0 3 45 .gps ∧ nSat m1.cfg.msm m1.buf 3 = 2 ∧ nSig m1.cfg.msm m1.buf 3 = 2 ∧
      nCell m1.cfg.msm m1.buf 3 = 3 :=
  ⟨decodes_m1.1, by decide +kernel⟩

theorem witness_MsmCompactBodyFields : m1.cfg.msm = msmStandard ∧ MsmDecodes m1 0 0 0 3 45 .gps := ⟨rfl, decodes_m1.1⟩

theorem witness_MsmExtendedBodyFields : m4.cfg.msm = msmStandard ∧ MsmDecodes m4 1 0 1 0 46 .glo := ⟨rfl, decodes_m4⟩

/-- M1 has an absent satellite and an absent cell, M4 both fine sentinels, M3 a range of fraction 5. -/
theorem witness_MsmReconstruction :
    m1.cfg.msm = msmStandard ∧ MsmDecodes m1 0 0 0 3 45 .gps ∧ MsmDecodes m3 5 0 0 0 30 .bds ∧
      MsmDecodes m4 1 0 1 0 46 .glo :=
  ⟨rfl, decodes_m1.1, decodes_m3, decodes_m4⟩

/-- A file with one satellite and one cell: indexes 0 and 1, the ends of each reserved range. -/
def oneCell : State :=
  { rtcm with mvalid := true
              msm := { MsmFile.zero with hdr := { MsmFile.zero.hdr with nsat := 1, nsig := 1, ncell := 1 }
                                         sats := [SatEntry.zero], cells := [CellEntry.zero] } }

theorem witness_MsmrdReadsTheResultFile :
    rtcm.mvalid = false ∧ oneCell.mvalid = true ∧
      (∀ n ∈ [0x14, 0x1F], 0x14 ≤ (BitVec.ofNat 8 n).toNat ∧ (BitVec.ofNat 8 n).toNat ≤ 0x1F) ∧
      (∀ n ∈ [0x28, 0x3F], 0x28 ≤ (BitVec.ofNat 8 n).toNat ∧ (BitVec.ofNat 8 n).toNat ≤ 0x3F) ∧
      0x50 ≤ (0x50 : BitVec 8).toNat ∧
      (0x20 ≤ (0x27 : BitVec 8).toNat ∧ (0x27 : BitVec 8).toNat ≤ 0x27 ∧ oneCell.msm.hdr.nsat.toNat ≤ (1 : BitVec 16).toNat) ∧
      (0x40 ≤ (0x4F : BitVec 8).toNat ∧ (0x4F : BitVec 8).toNat ≤ 0x4F ∧ oneCell.msm.hdr.ncell.toNat ≤ (1 : BitVec 16).toNat) ∧
      ((0 : BitVec 16).toNat < oneCell.msm.hdr.nsat.toNat ∧ oneCell.msm.sats[(0 : BitVec 16).toNat]? = some SatEntry.zero) ∧
      ((0 : BitVec 16).toNat < oneCell.msm.hdr.ncell.toNat ∧
        oneCell.msm.cells[(0 : BitVec 16).toNat]? = some CellEntry.zero) := by
  decide

/-- One command for each clause that answers a next state. -/
theorem witness_OnlyTheirCommandsWriteTheState :
    (∃ t, exec (.seek 9) f1Last = .next t) ∧ (∃ t, exec .reset f1Last = .next t) ∧ (∃ t, exec (.push 0x4B) f1Last = .next t) ∧
      (∃ t, exec (.ckvHam 0 0) f1Last = .next t) ∧
      (isPush (.seek 9) = false ∧ writesBuf (.seek 9) = false ∧ verifies (.seek 9) = false ∧ isMsmdec (.seek 9) = false ∧
        writesRes1 (.seek 9) = false ∧ leavesRes0 (.seek 9) = true ∧ Instr.seek 9 ≠ .reset ∧ movesCursor .reset = false) :=
  ⟨⟨_, rfl⟩, ⟨_, rfl⟩, ⟨_, rfl⟩, ⟨_, rfl⟩, by decide⟩

theorem witness_AtMostOneEventPerCommand :
    after (exec .nop f1Last) (fun t => t.events.length) = some 0 ∧
      after (exec (.push 0x4B) f1Last) (fun t => t.events.length) = some 1 ∧
      after (exec (.push 0x4A) f1Last) (fun t => t.events.length) = some 1 ∧
      after m1Done (fun t => t.events.length) = some 1 ∧
      after (exec (.msmdec 0 0 0 3 44) m1) (fun t => t.events.length) = some 1 := by
  decide +kernel

theorem witness_FrameLivesUntilTheNextBufferWrite :
    ((∃ t, exec .tell f1Last = .next t) ∧ readsOnly .tell = true) ∧
      ((∃ t, exec (.bufwr 9 1) f1Last = .next t) ∧ readsOnly (.bufwr 9 1) = false ∧ isPush (.bufwr 9 1) = false) ∧
      ((∃ t, exec (.push 0x4B) f1Last = .next t) ∧ isPush (.push 0x4B) = true) :=
  ⟨⟨⟨_, rfl⟩, by decide⟩, ⟨⟨_, rfl⟩, by decide, by decide⟩, ⟨_, rfl⟩, by decide⟩

theorem witness_EveryStepKeepsTheBufferCanonical :
    Memory.wf f1Last.buf ∧ ∃ t, step { f1Last with port := [pk 0x3000004B 0 0] } = .next t := ⟨by decide, _, rfl⟩

theorem stateInv_port {s : State} (h : StateInv s) (q : List Packet) : StateInv { s with port := q } := h

theorem witness_EveryStepKeepsTheInvariant :
    StateInv { f1Last with port := [pk 0x3000004B 0 0] } ∧ ∃ t, step { f1Last with port := [pk 0x3000004B 0 0] } = .next t :=
  ⟨stateInv_port stateInv_f1Last _, _, rfl⟩

theorem witness_ResetHasTheInvariant : cfgWf (instanceOf .nmea 128) = true ∧ cfgWf astCfg = true := by decide

end Sys2Proof.Tests
end

section
/-! Proofs for 00_scope.md: fields as bits (R10, R100), the step (R6, R57, R61), `PUSH` on an ill-formed configuration
(R8, R79). -/

namespace Sys2Proof.Machine

/-! ### A field is the sum of its bits -/

/-- The field as a positional sum: bit `i` from the left weighs `2 ^ (w - 1 - i)` (R100). -/
theorem getU_eq_sum (m : Memory) (p w : Nat) :
    getU m p w = ∑ i ∈ Finset.range w, (bitAt m (p + i)).toNat * 2 ^ (w - 1 - i) := by
  induction w with
  | zero => rfl
  | succ w ih =>
    -- one more bit doubles the weight of each bit before it
    have double : ∀ i ∈ Finset.range w, 2 * ((bitAt m (p + i)).toNat * 2 ^ (w - 1 - i)) =
        (bitAt m (p + i)).toNat * 2 ^ (w + 1 - 1 - i) := by
      intro i hi
      have hexp : w + 1 - 1 - i = w - 1 - i + 1 := by have := Finset.mem_range.1 hi; omega
      rw [hexp, pow_succ]; ring
    rw [getU, ih, Finset.mul_sum, Finset.sum_congr rfl double, Finset.sum_range_succ]
    simp

/-- A bit depends on its own byte only (R10). -/
theorem bitAt_congr {m m' : Memory} {q : Nat} (h : Memory.byteAt m' (q / 8) = Memory.byteAt m (q / 8)) :
    bitAt m' q = bitAt m q := by
  rw [bitAt, bitAt, h]

/-- A field depends only on the bytes it touches (R100). -/
theorem getU_congr_bytes {m m' : Memory} {p w : Nat}
    (h : ∀ a, p / 8 ≤ a → 8 * a < p + w → Memory.byteAt m' a = Memory.byteAt m a) :
    getU m' p w = getU m p w :=
  getU_congr fun i hi => bitAt_congr (h ((p + i) / 8) (by omega) (by omega))

/-- Settles O10: the sum by induction on the width, the locality bit by bit. -/
theorem fieldIsItsBits : Obligations.FieldIsItsBits := by
  intro m p w
  exact ⟨getU_eq_sum m p w, getU_lt m p w, fun _ => rfl, fun _ h => getU_congr_bytes h⟩

/-! ### One step, by the head of the queue -/

theorem step_idle {s : State} (h : s.port = []) : step s = .next s := by
  simp [step, h]

theorem step_issued {s : State} {p : Packet} {r : List Packet} (h : s.port = p :: r) :
    step s = runPacket p { s with port := r } := by
  simp [step, h]

/-- The step after `withFetchWord` runs the packet just placed, on the state it was placed in. -/
theorem step_withFetchWord (s : State) (n w : Nat) :
    step (s.withFetchWord n w) = runPacket (packetOfNumber n w) s := rfl

/-- A table word reads as a command exactly when the decoder accepts its packet as that command. -/
theorem decodeTableWord_eq_some {n w : Nat} {i : Instr} :
    decodeTableWord n w = some i ↔ decode (packetOfNumber n w) = .ok i := by
  unfold decodeTableWord
  split <;> simp_all

/-- Settles O5: the step by the head of the queue, and the packet by the decoder's answer. -/
theorem stepTakesTheIssuedCommand : Obligations.StepTakesTheIssuedCommand := by
  refine ⟨fun s h => step_idle h, fun s p r i hport hdec => ?_, fun s p r e hport hdec => ?_, fun s n w i hdec => ?_⟩
  · rw [step_issued hport, runPacket_ok hdec]
  · rw [step_issued hport, runPacket_error hdec, exec_refuse]
  · rw [step_withFetchWord, runPacket_ok (decodeTableWord_eq_some.1 hdec)]

/-! ### `PUSH` on an ill-formed configuration -/

theorem push_refused {s : State} (b : Byte) (hc : cfgWf s.cfg = false) :
    exec (.push b) s = .next { s with ill := true } := by
  simp [exec, execPush, refuse, hc]

/-- On a well-formed BIN instance the first sync byte does not recur (R8). -/
theorem bin_sync0_ne {c : Cfg} (hc : cfgWf c = true) (hbin : c.proto = .bin) :
    c.binSync0 ≠ c.binSync1 ∧ c.binSync0 ≠ c.binSync2 := by
  have hgen : genericOf c.proto = some .bin := by rw [hbin]; rfl
  obtain ⟨-, -, -, -, hfresh⟩ := generic_cfg_facts hc hgen
  have h1 := hfresh 1 (by decide)
  have h2 := hfresh 2 (by decide)
  simp only [syncBytes, List.getElem?_cons_zero, List.getElem?_cons_succ, ne_eq, Option.some.injEq,
    reduceCtorEq, or_false] at h1 h2
  exact ⟨Ne.symm h1, Ne.symm h2⟩

/-- Settles O8: each clause contradicts what a well-formed configuration gives. -/
theorem pushOnIllFormedConfigurationRefused : Obligations.PushOnIllFormedConfigurationRefused := by
  refine ⟨fun s b hc => push_refused b hc, fun c hcap => eq_false_of_ne_true fun hc => ?_,
    fun c hbin hrec => eq_false_of_ne_true fun hc => ?_⟩
  · have := capacity_bounds hc
    omega
  · obtain ⟨h1, h2⟩ := bin_sync0_ne hc hbin
    exact hrec.elim h1 h2

end Sys2Proof.Machine
end

section
/-! Proofs for 10_state.md: the layout of `STATUS` (R24), reset (R37), and what a command can write, from which
every rule about what a step keeps follows (R21 to R34, R286). -/

namespace Sys2Proof.Machine

/-! ### `STATUS` and reset -/

/-- Settles O22: the codes by evaluation, each field by peeling the concatenation of R24 down to it. The widths stay
written as sums, or the lemmas about `++` no longer match. -/
theorem statusWordLayout : Obligations.StatusWordLayout := by
  refine ⟨rfl, rfl, rfl, rfl, fun s => ?_⟩
  unfold statusWord
  simp only [BitVec.getLsbD_append, BitVec.extractLsb'_append_eq_ite, -Nat.reduceAdd]
  simp

/-- Settles O23: the reset state by its definition, `STATUS` with every field 0. -/
theorem resetLeavesTheSpecValues : Obligations.ResetLeavesTheSpecValues :=
  fun _ => ⟨_, _, _, rfl, by simp [statusWord, State.resetWith, phaseCode, lastErrCode], rfl⟩

/-! ### What a command can write -/

/-- What a command that answers has done, by the part of the state it writes (R21 to R32): it was refused; it wrote
result registers, `VOK` or the cursor; it wrote bytes of `BUF`; or it is `RESET`, `PUSH` or `MSMDEC`. -/
inductive CommandEffect : Instr → State → State → Prop
  | refused (i : Instr) (s : State) : CommandEffect i s { s with ill := true }
  | registers {i : Instr} {s : State} (v w : Word) (ok : Bool) (pos : Word)
      (hbuf : writesBuf i = false) (hmsm : isMsmdec i = false) (hreset : i ≠ .reset)
      (hres0 : leavesRes0 i = true → v = s.res0) (hres1 : writesRes1 i = false → w = s.res1)
      (hvok : verifies i = false → ok = s.vok) (hpos : movesCursor i = false → pos = s.bitoff) :
      CommandEffect i s { s with res0 := v, res1 := w, vok := ok, bitoff := pos }
  | bytes {i : Instr} {s : State} (m : Memory) (pos : Word)
      (hbuf : writesBuf i = true) (hpush : isPush i = false) (hpos : movesCursor i = false → pos = s.bitoff)
      (hwf : Memory.wf s.buf → Memory.wf m) (hidx : ∀ e ∈ m, e ∈ s.buf ∨ e.1 < bufCapacity s.cfg) :
      CommandEffect i s { s with buf := m, bitoff := pos, fvalid := false }
  | reset (s : State) : CommandEffect .reset s (clearPushFlags
      { s with phase := .sync, cnt := 0, hlen := 0, plen := 0, star := 0, word := 0, nbit := 0 })
  | push (b : Byte) (s : State) (hc : cfgWf s.cfg = true) :
      CommandEffect (.push b) s (reportDone (framerStep b (clearPushFlags s)))
  | msmdec (sys : BitVec 4) (z : BitVec 3) (x : BitVec 1) (p l : Word) (s : State) (g : GnssSys) :
      CommandEffect (.msmdec sys z x p l) s (msmRun g (variantOf x) p.toNat l.toNat s)

/-- A command that leaves its result in `RES0` alone. -/
theorem CommandEffect.result {i : Instr} {s : State} (v : Word) (hbuf : writesBuf i = false)
    (hmsm : isMsmdec i = false) (hreset : i ≠ .reset) (hres0 : leavesRes0 i = false) :
    CommandEffect i s (setRes0 v s) :=
  .registers v s.res1 s.vok s.bitoff hbuf hmsm hreset (by simp [hres0]) (fun _ => rfl) (fun _ => rfl) (fun _ => rfl)

/-- A verify command. -/
theorem CommandEffect.verdict {i : Instr} {s : State} (v : Word) (ok : Bool) (hbuf : writesBuf i = false)
    (hmsm : isMsmdec i = false) (hreset : i ≠ .reset) (hres0 : leavesRes0 i = false) (hvok : verifies i = true) :
    CommandEffect i s { s with res0 := v, vok := ok } :=
  .registers v s.res1 ok s.bitoff hbuf hmsm hreset (by simp [hres0]) (fun _ => rfl) (by simp [hvok]) (fun _ => rfl)

/-- A span command is refused or has its effect. -/
theorem CommandEffect.ofSpan {i : Instr} {a : BitVec 16} {l : Word} {f : List Byte → State → State} {s t : State}
    (h : onSpan a l f s = .next t) (hf : ∀ bs, CommandEffect i s (f bs s)) : CommandEffect i s t := by
  obtain ⟨-, rfl⟩ | ⟨-, rfl⟩ := onSpan_next h
  · exact .refused i s
  · exact hf _

/-- A bit-field read is refused or leaves a result and moves the cursor. -/
theorem CommandEffect.ofRead {i : Instr} {w : BitVec 8} {f : Nat → Nat → State → State} {s t : State}
    (h : bitAccess w f s = .next t) (hf : ∀ p n, ∃ v, f p n s = setRes0 v s)
    (hbuf : writesBuf i = false) (hmsm : isMsmdec i = false) (hreset : i ≠ .reset) (hres0 : leavesRes0 i = false)
    (hpos : movesCursor i = true) : CommandEffect i s t := by
  obtain ⟨-, rfl⟩ | ⟨-, -, rfl⟩ := bitAccess_next h
  · exact .refused i s
  · obtain ⟨v, hv⟩ := hf s.bitoff.toNat w.toNat
    rw [hv]
    exact .registers v s.res1 s.vok _ hbuf hmsm hreset (by simp [hres0]) (fun _ => rfl) (fun _ => rfl) (by simp [hpos])

/-- A bit-field write is refused or writes bytes of its field. -/
theorem CommandEffect.ofWrite {i : Instr} {w : BitVec 8} {v : Word} {s t : State}
    (h : bitAccess w (writeField v) s = .next t)
    (hbuf : writesBuf i = true) (hpush : isPush i = false) (hpos : movesCursor i = true) : CommandEffect i s t := by
  obtain ⟨-, rfl⟩ | ⟨-, hin, rfl⟩ := bitAccess_next h
  · exact .refused i s
  · refine .bytes (putU s.buf s.bitoff.toNat w.toNat _) _ hbuf hpush (by simp [hpos]) (putU_wf _ _ _) fun e he => ?_
    have hin : s.bitoff.toNat + w.toNat ≤ 8 * bufCapacity s.cfg := by simpa [fieldInBuf] using hin
    exact (putU_index he).imp_right fun ⟨_, hlt⟩ => by omega

/-- Every command that answers a next state has one of the effects. -/
theorem exec_effect {i : Instr} {s t : State} (h : exec i s = .next t) : CommandEffect i s t := by
  cases i with
  | nop =>
    cases h
    exact .registers s.res0 s.res1 s.vok s.bitoff rfl rfl nofun (fun _ => rfl) (fun _ => rfl)
      (fun _ => rfl) (fun _ => rfl)
  | stat => cases h; exact .result _ rfl rfl nofun rfl
  | reset => cases h; exact .reset s
  | getr reg =>
    simp only [exec, execGetr] at h
    split at h <;> cases h
    · exact .result _ rfl rfl nofun rfl
    · exact .refused _ s
  | rdu w => exact .ofRead h (fun _ _ => ⟨_, rfl⟩) rfl rfl nofun rfl rfl
  | rds w => exact .ofRead h (fun _ _ => ⟨_, rfl⟩) rfl rfl nofun rfl rfl
  | wru w v => exact .ofWrite h rfl rfl rfl
  | wrs w v => exact .ofWrite h rfl rfl rfl
  | seek pos =>
    cases h
    exact .registers s.res0 s.res1 s.vok pos rfl rfl nofun (fun _ => rfl) (fun _ => rfl) (fun _ => rfl) nofun
  | tell => cases h; exact .result _ rfl rfl nofun rfl
  | bufrd idx =>
    simp only [exec, execBufrd] at h
    split at h <;> cases h
    · exact .result _ rfl rfl nofun rfl
    · exact .refused _ s
  | bufwr idx b =>
    simp only [exec, execBufwr] at h
    split at h <;> cases h
    · rename_i hin
      refine .bytes (Memory.set s.buf idx.toNat b) s.bitoff rfl rfl (fun _ => rfl) (set_wf _ _) fun e he => ?_
      obtain rfl | he := mem_set he
      · exact .inr (by simpa [indexInBuf] using hin)
      · exact .inl he
    · exact .refused _ s
  | ckcCrc24q start len =>
    unfold exec execCkcCrc24q at h
    exact .ofSpan h fun _ => .result _ rfl rfl nofun rfl
  | ckcCrc32 start len =>
    unfold exec execCkcCrc32 at h
    exact .ofSpan h fun _ => .result _ rfl rfl nofun rfl
  | ckcFlet start len =>
    unfold exec execCkcFlet at h
    exact .ofSpan h fun _ => .result _ rfl rfl nofun rfl
  | ckcXor start len =>
    exact .ofSpan h fun bs => .registers ((xor8 bs).setWidth 32) ((xorhex bs).setWidth 32) s.vok s.bitoff rfl rfl nofun
      nofun nofun (fun _ => rfl) (fun _ => rfl)
  | ckcHam word => cases h; exact .result _ rfl rfl nofun rfl
  | ckvCrc24q start len e =>
    unfold exec execCkvCrc24q at h
    exact .ofSpan h fun _ => .verdict _ _ rfl rfl nofun rfl rfl
  | ckvCrc32 start len e =>
    unfold exec execCkvCrc32 at h
    exact .ofSpan h fun _ => .verdict _ _ rfl rfl nofun rfl rfl
  | ckvFlet start len e =>
    unfold exec execCkvFlet at h
    exact .ofSpan h fun _ => .verdict _ _ rfl rfl nofun rfl rfl
  | ckvXor start len e =>
    unfold exec execCkvXor at h
    exact .ofSpan h fun _ => .verdict _ _ rfl rfl nofun rfl rfl
  | ckvHam word e => cases h; exact .verdict _ _ rfl rfl nofun rfl rfl
  | hamdec word =>
    simp only [exec, execHamdec] at h
    split at h <;> cases h <;> exact .verdict _ _ rfl rfl nofun rfl rfl
  | push b =>
    obtain ⟨-, rfl⟩ | ⟨hc, rfl⟩ := execPush_next h
    · exact .refused _ s
    · exact .push b s hc
  | msmdec sys z x p l =>
    obtain rfl | ⟨g, -, -, -, rfl⟩ := execMsmdec_next h
    · exact .refused _ s
    · exact .msmdec sys z x p l s g
  | msmrd sel idx =>
    obtain rfl | ⟨-, e, -, rfl⟩ := execMsmrd_next h
    · exact .refused _ s
    · cases e with
      | w32 v => exact .registers v s.res1 s.vok s.bitoff rfl rfl nofun nofun nofun (fun _ => rfl) (fun _ => rfl)
      | w64 v => exact .registers _ _ s.vok s.bitoff rfl rfl nofun nofun nofun (fun _ => rfl) (fun _ => rfl)

/-- What every effect keeps, and does not see the queue, every step keeps: an idle step changes nothing, and a reserved
packet is refused as a command is (R78). -/
theorem step_keeps {P : State → Prop} (hport : ∀ s r, P s → P { s with port := r })
    (heff : ∀ i s t, CommandEffect i s t → P s → P t) {s t : State} (hs : P s) (h : step s = .next t) : P t := by
  obtain ⟨-, hidle⟩ | ⟨p, r, -, hrun⟩ := step_cases s
  · rw [hidle] at h
    cases h
    exact hs
  · rw [hrun] at h
    cases hd : decode p with
    | ok i =>
      rw [runPacket_ok hd] at h
      exact heff i _ t (exec_effect h) (hport s r hs)
    | error e =>
      rw [runPacket_error hd, exec_refuse] at h
      cases h
      exact heff .nop _ _ (.refused .nop _) (hport s r hs)

/-! ### Rules about every command -/

/-- Settles O9: `ILL` is written by refusal alone, and there to 1. -/
theorem illIsSticky : Obligations.IllIsSticky := by
  intro s t h hill
  refine step_keeps (P := fun s => s.ill = true) (fun _ _ h => h) (fun i s t heff hill => ?_) hill h
  cases heff with
  | refused => rfl
  | registers => exact hill
  | bytes => exact hill
  | reset => exact hill
  | push b _ hc =>
    obtain ⟨-, -, -, -, -, hkeep, -⟩ := (framerStep_one b (clearPushFlags s)).1
    exact hkeep.trans hill
  | msmdec sys z x p l _ g =>
    obtain ⟨k, -, hrun⟩ | ⟨-, hrun⟩ := msmRun_cases g (variantOf x) p.toNat l.toNat s
    · rw [hrun]; exact hill
    · rw [hrun]; exact hill

/-- Settles O55: each effect writes its own fields; what `PUSH` leaves alone is `framerStep_one`. -/
theorem onlyTheirCommandsWriteTheState : Obligations.OnlyTheirCommandsWriteTheState := by
  intro i s t h
  cases exec_effect h with
  | refused => simp
  | registers v w ok pos hbuf hmsm hreset hres0 hres1 hvok hpos => simpa using ⟨hpos, hvok, hres1, hres0⟩
  | bytes m pos hbuf hpush hpos => simpa [hbuf] using hpos
  | reset => simp
  | push b _ hc =>
    obtain ⟨hcfg, -, hres1, hvok, hmvalid, -, hpos, hmsm, hport, -⟩ := (framerStep_one b (clearPushFlags s)).1
    simp only [clearPushFlags_cfg, clearPushFlags_res1, clearPushFlags_vok, clearPushFlags_mvalid,
      clearPushFlags_bitoff, clearPushFlags_msm, clearPushFlags_port] at hcfg hres1 hvok hmvalid hpos hmsm hport
    simp [isPush, writesBuf, leavesRes0, hcfg, hres1, hvok, hmvalid, hpos, hmsm, hport]
  | msmdec sys z x p l _ g =>
    obtain ⟨k, -, hrun⟩ | ⟨-, hrun⟩ := msmRun_cases g (variantOf x) p.toNat l.toNat s
    · simp [hrun, isMsmdec, leavesRes0]
    · simp [hrun, isMsmdec, leavesRes0]

/-- After the framer's step `FVALID` and `DONE` agree: both were cleared, and a frame sets both (R150, R158). -/
theorem framerStep_fvalid (b : Byte) (s : State) :
    (framerStep b (clearPushFlags s)).fvalid = (framerStep b (clearPushFlags s)).done := by
  obtain ⟨-, -, hdone, hfv⟩ | ⟨_, _, _, _, -, -, hdone, hfv⟩ | ⟨_, _, -, -, -, hdone, hfv⟩ :=
    (framerStep_one b (clearPushFlags s)).2.1
  · rw [hdone, hfv]; rfl
  · rw [hdone, hfv]
  · rw [hdone, hfv]; rfl

/-- Settles O57: by the effect; a reading command is one that writes registers, or `MSMDEC`. -/
theorem frameLivesUntilTheNextBufferWrite : Obligations.FrameLivesUntilTheNextBufferWrite := by
  intro i s t h
  cases exec_effect h with
  | refused => simp
  | registers v w ok pos hbuf hmsm hreset =>
    have hread : readsOnly i = true := by simp [readsOnly, hbuf, hreset]
    have hpush : isPush i = false := by cases i <;> simp_all [isPush, writesBuf]
    simp [hread, hpush]
  | bytes m pos hbuf hpush =>
    have hread : readsOnly i = false := by simp [readsOnly, hbuf]
    simp [hread, hpush]
  | reset => simp [readsOnly, isPush]
  | push b _ hc => simp [readsOnly, writesBuf, isPush, framerStep_fvalid]
  | msmdec sys z x p l _ g =>
    obtain ⟨k, -, hrun⟩ | ⟨-, hrun⟩ := msmRun_cases g (variantOf x) p.toNat l.toNat s
    · simp [hrun, readsOnly, writesBuf, isPush]
    · simp [hrun, readsOnly, writesBuf, isPush]

/-! ### What the framer stores -/

@[simp] theorem completeFrame_buf (g : Generic) (s : State) : (completeFrame g s).buf = s.buf := by
  unfold completeFrame; split <;> rfl

@[simp] theorem phaseStep_buf (g : Generic) (s : State) : (phaseStep g s).buf = s.buf := by
  unfold phaseStep; split_ifs <;> simp

@[simp] theorem lengthStep_buf (g : Generic) (s : State) : (lengthStep g s).buf = s.buf := by
  simp only [lengthStep]; split_ifs <;> simp

/-- Outside `SYNC` the generic machine stores the byte at `BUF[CNT]` (R155). -/
@[simp] theorem frameByte_buf (g : Generic) (b : Byte) (s : State) :
    (frameByte g b s).buf = Memory.set s.buf s.cnt.toNat b := by
  simp only [frameByte]; split_ifs <;> simp

@[simp] theorem completeText_buf (s : State) : (completeText s).buf = s.buf := by
  unfold completeText; split <;> rfl

@[simp] theorem textEnd_buf (b : Byte) (s : State) : (textEnd b s).buf = s.buf := by
  unfold textEnd; split_ifs <;> simp

@[simp] theorem textPhase_buf (b : Byte) (s : State) : (textPhase b s).buf = s.buf := by
  unfold textPhase; split <;> simp [apply_ite State.buf]

@[simp] theorem legacyComplete_buf (s : State) : (legacyComplete s).buf = s.buf := by
  unfold legacyComplete; split <;> rfl

@[simp] theorem legacyLength_buf (s : State) : (legacyLength s).buf = s.buf := by
  simp only [legacyLength]; split_ifs <;> simp

@[simp] theorem resyncMid_buf (g : Generic) (b : Byte) (s : State) : (resyncMid g b s).buf = s.buf := by
  unfold resyncMid; split <;> rfl

/-! ### The canonical form of `BUF` (R30) -/

theorem syncMatch_wf (sy : List Byte) (b : Byte) {s : State} (h : Memory.wf s.buf) :
    Memory.wf (syncMatch sy b s).buf := by
  unfold syncMatch; split_ifs
  · exact set_wf _ _ h
  · exact set_wf _ _ h
  · exact h

theorem syncSearch_wf (g : Generic) (b : Byte) {s : State} (h : Memory.wf s.buf) :
    Memory.wf (syncSearch g b s).buf := by
  simp only [syncSearch]; split <;> exact syncMatch_wf _ b h

theorem genericStep_wf (g : Generic) (b : Byte) {s : State} (h : Memory.wf s.buf) :
    Memory.wf (genericStep g b s).buf := by
  have hr : Memory.wf (resyncMid g b s).buf := by rwa [resyncMid_buf]
  simp only [genericStep]; split
  · exact syncSearch_wf g b hr
  · rw [frameByte_buf]; exact set_wf _ _ hr

theorem textStep_wf (b : Byte) {s : State} (h : Memory.wf s.buf) : Memory.wf (textStep b s).buf := by
  unfold textStep; split_ifs
  · exact set_wf _ _ h
  · exact h
  · unfold textByte; split
    · exact h
    · rw [textPhase_buf, takeByte_buf]; exact set_wf _ _ h

theorem legacyWord_wf {s : State} (h : Memory.wf s.buf) : Memory.wf (legacyWord s).buf := by
  unfold legacyWord; split
  · rw [legacyLength_buf]; exact memWrite_wf _ _ h
  · exact h

theorem legacyBit_wf (v : Bool) {s : State} (h : Memory.wf s.buf) : Memory.wf (legacyBit s v).buf := by
  simp only [legacyBit]; split
  · unfold legacySearch; split
    · exact memWrite_wf _ _ h
    · exact h
  · unfold legacyCollect; split
    · exact h
    · exact legacyWord_wf h

/-- What every bit keeps, the bits of a byte keep (R177). -/
theorem legacyStep_keeps {P : State → Prop} (hbit : ∀ s v, P s → P (legacyBit s v)) (b : Byte) {s : State} (h : P s) :
    P (legacyStep b s) := by
  have hfold : ∀ (l : List Bool) (s : State), P s → P (l.foldl legacyBit s) := by
    intro l
    induction l with
    | nil => exact fun _ h => h
    | cons v l ih => exact fun s h => ih _ (hbit s v h)
  unfold legacyStep; split
  · exact hfold _ s h
  · exact h

theorem framerStep_wf (b : Byte) {s : State} (h : Memory.wf s.buf) : Memory.wf (framerStep b s).buf := by
  unfold framerStep
  split
  case h_5 => exact textStep_wf b h
  case h_6 => exact legacyStep_keeps (P := fun s => Memory.wf s.buf) (fun _ v h => legacyBit_wf v h) b h
  all_goals exact genericStep_wf _ b h

/-- Settles O58: the buffer writers through `set_wf` and `putU_wf`, `PUSH` through its framer. -/
theorem everyStepKeepsTheBufferCanonical : Obligations.EveryStepKeepsTheBufferCanonical := by
  intro s t hs h
  refine step_keeps (P := fun s => Memory.wf s.buf) (fun _ _ h => h) (fun i s t heff hs => ?_) hs h
  cases heff with
  | refused => exact hs
  | registers => exact hs
  | bytes m pos hbuf hpush hpos hwf => exact hwf hs
  | reset => exact hs
  | push b _ hc => exact framerStep_wf b (s := clearPushFlags s) hs
  | msmdec sys z x p l _ g =>
    obtain ⟨k, -, hrun⟩ | ⟨-, hrun⟩ := msmRun_cases g (variantOf x) p.toNat l.toNat s
    · rw [hrun]; exact hs
    · rw [hrun]; exact hs

/-! ### The invariant of the machine: the buffer -/

theorem BufInv.set {s : State} (h : BufInv s) {a : Nat} (b : Byte) (ha : a < bufCapacity s.cfg) :
    BufInv { s with buf := Memory.set s.buf a b } := by
  refine ⟨set_wf a b h.1, fun e he => ?_⟩
  obtain rfl | he := mem_set he
  · exact ha
  · exact h.2 e he

theorem BufInv.memWrite {s : State} (h : BufInv s) {a : Nat} {bs : List Byte} (ha : a + bs.length ≤ bufCapacity s.cfg) :
    BufInv { s with buf := memWrite s.buf a bs } := by
  refine ⟨memWrite_wf a bs h.1, fun e he => ?_⟩
  obtain he | ⟨-, hlt⟩ := memWrite_index he
  · exact h.2 e he
  · show e.1 < bufCapacity s.cfg; omega

/-- The part of the invariant that `PUSH` works on, with the framer's own part `F`. -/
structure PushInv (F : State → Prop) (s : State) : Prop where
  buf : BufInv s
  framer : F s
  frame : FrameInv s

/-- A framer back in `SYNC` with `CNT = 0` has its invariant, whatever the protocol (R37, R151, R160). -/
theorem genericInv_sync {g : Generic} {s : State} (hc : cfgWf s.cfg = true) (hg : genericOf s.cfg.proto = some g)
    (hp : s.phase = .sync) (h0 : s.cnt = 0) : GenericInv g s := by
  unfold GenericInv
  rw [if_pos hp, h0]
  exact List.length_pos_iff.2 (generic_cfg_facts hc hg).1

/-! ### The generic machine keeps its invariant -/

/-- Rule R157 on a buffer whose lengths are known and whose frame fits. -/
theorem phaseStep_keeps {g : Generic} {s : State} (hc : cfgWf s.cfg = true) (hg : genericOf s.cfg.proto = some g)
    (hbuf : BufInv s) (hframe : FrameInv s)
    (hcnt : lKnown s.cfg g ≤ s.cnt.toNat) (hlen : lKnown s.cfg g ≤ s.hlen.toNat)
    (hle : s.cnt.toNat ≤ s.hlen.toNat + s.plen.toNat + ckBytes g)
    (hfit : s.hlen.toNat + s.plen.toNat + ckBytes g ≤ bufCapacity s.cfg) : PushInv (GenericInv g) (phaseStep g s) := by
  obtain ⟨-, hns, -⟩ := generic_cfg_facts hc hg
  unfold phaseStep
  split_ifs with h1 h2 h3
  · refine ⟨hbuf, ?_, hframe⟩
    simp only [GenericInv, reduceCtorEq, if_false]
    exact ⟨by omega, fun _ => trivial, fun _ => ⟨hlen, by omega, hfit, by rw [if_pos h1]⟩⟩
  · refine ⟨hbuf, ?_, hframe⟩
    simp only [GenericInv, reduceCtorEq, if_false]
    exact ⟨by omega, fun h => by omega, fun _ => ⟨hlen, by omega, hfit, by rw [if_neg h1, if_pos h2]⟩⟩
  · refine ⟨hbuf, ?_, hframe⟩
    simp only [GenericInv, reduceCtorEq, if_false]
    exact ⟨by omega, fun h => by omega, fun _ => ⟨hlen, h3, hfit, by rw [if_neg h1, if_neg h2]⟩⟩
  · unfold completeFrame
    split
    · refine ⟨hbuf, genericInv_sync hc hg rfl rfl, fun _ => ?_⟩
      show s.cnt.toNat ≤ bufCapacity s.cfg ∧ s.hlen.toNat + s.plen.toNat ≤ s.cnt.toNat
      omega
    · exact ⟨hbuf, genericInv_sync hc hg rfl rfl, hframe⟩

/-- Rule R156 on the byte that makes `CNT` equal `LKNOWN`. -/
theorem lengthStep_keeps {g : Generic} {s : State} (hc : cfgWf s.cfg = true) (hg : genericOf s.cfg.proto = some g)
    (hbuf : BufInv s) (hframe : FrameInv s) (hcnt : s.cnt.toNat = lKnown s.cfg g) :
    PushInv (GenericInv g) (lengthStep g s) := by
  have hh := headerLen_lt s.cfg s.buf g
  have hp := payloadLen_lt s.cfg s.buf g
  simp only [lengthStep]
  generalize headerLen s.cfg s.buf g = hl at *
  generalize payloadLen s.cfg s.buf g = pl at *
  split_ifs with h1 h2
  · exact ⟨hbuf, genericInv_sync hc hg rfl rfl, hframe⟩
  · exact ⟨hbuf, genericInv_sync hc hg rfl rfl, hframe⟩
  · have hl' : (BitVec.ofNat 16 hl).toNat = hl := by simp; omega
    have pl' : (BitVec.ofNat 16 pl.toNat).toNat = pl.toNat := by simp; omega
    refine phaseStep_keeps (s := { s with hlen := BitVec.ofNat 16 hl, plen := BitVec.ofNat 16 pl.toNat })
      hc hg hbuf hframe ?_ ?_ ?_ ?_
    all_goals dsimp only; omega

/-- Rule R154 stores at `CNT` or at 0 and matches at most the whole of `SYNC`. -/
theorem syncMatch_keeps {sy : List Byte} (b : Byte) {s : State} (hs : s.cnt.toNat < sy.length)
    (hlen : sy.length < bufCapacity s.cfg) (hcap : bufCapacity s.cfg ≤ 65536) (hbuf : BufInv s) :
    BufInv (syncMatch sy b s) ∧ (syncMatch sy b s).cnt.toNat ≤ sy.length := by
  unfold syncMatch
  split_ifs
  · refine ⟨hbuf.set b (by omega), ?_⟩
    rw [takeByte_cnt, cnt_succ rfl (by omega)]
    exact hs
  · exact ⟨hbuf.set b (by omega), Nat.one_le_of_lt hs⟩
  · exact ⟨hbuf, Nat.zero_le _⟩

/-- The match of R154 changes `BUF` and `CNT` only. -/
theorem syncMatch_same (sy : List Byte) (b : Byte) (s : State) :
    (syncMatch sy b s).cfg = s.cfg ∧ (syncMatch sy b s).phase = s.phase ∧
    (FrameInv s → FrameInv (syncMatch sy b s)) := by
  unfold syncMatch
  split_ifs <;> exact ⟨rfl, rfl, fun h => h⟩

/-- Rule R154. -/
theorem syncSearch_keeps {g : Generic} (b : Byte) {s : State} (hc : cfgWf s.cfg = true)
    (hg : genericOf s.cfg.proto = some g) (hp : s.phase = .sync) (h : PushInv (GenericInv g) s) :
    PushInv (GenericInv g) (syncSearch g b s) := by
  obtain ⟨-, hns, hfit, hcap, -⟩ := generic_cfg_facts hc hg
  have hcnt : s.cnt.toNat < (syncBytes s.cfg g).length := by
    have hi := h.framer
    rwa [GenericInv, if_pos hp] at hi
  obtain ⟨hbuf, hle⟩ := syncMatch_keeps b hcnt (by omega) hcap h.buf
  obtain ⟨hcfg, hphase, hframe⟩ := syncMatch_same (syncBytes s.cfg g) b s
  simp only [syncSearch]
  generalize syncMatch (syncBytes s.cfg g) b s = t at *
  split_ifs with hall
  · refine ⟨hbuf, ?_, hframe h.frame⟩
    simp only [GenericInv, reduceCtorEq, if_false, hcfg]
    exact ⟨by omega, fun _ => trivial, fun hk => by omega⟩
  · refine ⟨hbuf, ?_, hframe h.frame⟩
    rw [GenericInv, if_pos (hphase.trans hp), hcfg]
    omega

/-- Rules R155 to R158. -/
theorem frameByte_keeps {g : Generic} (b : Byte) {s : State} (hc : cfgWf s.cfg = true)
    (hg : genericOf s.cfg.proto = some g) (hp : s.phase ≠ .sync) (h : PushInv (GenericInv g) s) :
    PushInv (GenericInv g) (frameByte g b s) := by
  obtain ⟨-, hns, hfit, hcap, -⟩ := generic_cfg_facts hc hg
  have hi := h.framer
  rw [GenericInv, if_neg hp] at hi
  obtain ⟨hsync, hheader, hknown⟩ := hi
  have hin : s.cnt.toNat < bufCapacity s.cfg := by
    by_cases hk : s.cnt.toNat < lKnown s.cfg g
    · omega
    · obtain ⟨-, hlt, hle, -⟩ := hknown (by omega)
      omega
  have hcnt : (takeByte b s).cnt.toNat = s.cnt.toNat + 1 := cnt_succ rfl (by omega)
  have hbuf : BufInv (takeByte b s) := h.buf.set b hin
  simp only [frameByte]
  split_ifs with h1 h2
  · refine ⟨hbuf, ?_, h.frame⟩
    rw [GenericInv, if_neg (by exact hp), takeByte_cfg]
    exact ⟨by omega, fun _ => hheader (by omega), fun hk => by omega⟩
  · exact lengthStep_keeps (s := takeByte b s) hc hg hbuf h.frame h2
  · obtain ⟨hlen, hlt, hle, -⟩ := hknown (by omega)
    refine phaseStep_keeps (s := takeByte b s) hc hg hbuf h.frame ?_ hlen ?_ hle
    · rw [takeByte_cfg]; omega
    · rw [hcnt]; exact hlt

theorem genericStep_keeps {g : Generic} (b : Byte) {s : State} (hc : cfgWf s.cfg = true)
    (hg : genericOf s.cfg.proto = some g) (h : PushInv (GenericInv g) s) :
    PushInv (GenericInv g) (genericStep g b s) := by
  unfold genericStep resyncMid
  split
  · -- R159: a search from `SYNC`
    exact syncSearch_keeps b (s := toSync s) hc hg rfl ⟨h.buf, genericInv_sync hc hg rfl rfl, h.frame⟩
  · dsimp only
    split_ifs with hp
    · exact syncSearch_keeps b hc hg hp h
    · exact frameByte_keeps b hc hg hp h

/-! ### The text machine keeps its invariant -/

/-- The last step of R173 and the completion of R174, with CR or LF just stored. -/
theorem textEnd_keeps (b : Byte) {s : State} (hbuf : BufInv s) (hframe : FrameInv s) (hp : s.phase = .tend)
    (hone : 1 ≤ s.star.toNat) (hcnt : s.cnt.toNat = s.star.toNat + 4 ∨ s.cnt.toNat = s.star.toNat + 5)
    (hle : s.cnt.toNat ≤ bufCapacity s.cfg) : PushInv TextInv (textEnd b s) := by
  have hsync : PushInv TextInv (textToSync s) := ⟨hbuf, ⟨rfl, rfl⟩, hframe⟩
  unfold textEnd
  split_ifs with hcr
  · refine ⟨hbuf, ?_, hframe⟩
    simp only [TextInv, hp]
    exact ⟨hone, .inr hcr, hle⟩
  · exact hsync
  · unfold completeText
    split_ifs
    · refine ⟨hbuf, ⟨rfl, rfl⟩, fun _ => ?_⟩
      show s.cnt.toNat ≤ bufCapacity s.cfg ∧ 1 + (s.star - 1).toNat ≤ s.cnt.toNat
      have hstar : (s.star - 1).toNat = s.star.toNat - 1 := BitVec.toNat_sub_of_le (by simpa [BitVec.le_def] using hone)
      omega
    · exact ⟨hbuf, ⟨rfl, rfl⟩, hframe⟩
  · exact hsync

/-- Rule R173: `CNT` and `STAR` count the bytes from the `*` on, one more than before the byte was stored. -/
theorem textPhase_keeps (b : Byte) {s : State} (hbuf : BufInv s) (hframe : FrameInv s)
    (hle : s.cnt.toNat ≤ bufCapacity s.cfg) (hcap : bufCapacity s.cfg ≤ 65536)
    (h : (s.phase = .tbody ∧ 2 ≤ s.cnt.toNat ∧ s.star = 0) ∨
      (s.phase = .tck ∧ 1 ≤ s.star.toNat ∧ (s.cnt.toNat = s.star.toNat + 2 ∨ s.cnt.toNat = s.star.toNat + 3)) ∨
      (s.phase = .tend ∧ 1 ≤ s.star.toNat ∧ (s.cnt.toNat = s.star.toNat + 4 ∨ s.cnt.toNat = s.star.toNat + 5))) :
    PushInv TextInv (textPhase b s) := by
  unfold textPhase
  obtain ⟨hp, htwo, hstar⟩ | ⟨hp, hone, hcnt⟩ | ⟨hp, hone, hcnt⟩ := h <;> simp only [hp]
  · split_ifs
    · -- `STAR` is the index of the `*`, also where `CNT` is 65536 and its low 16 bits are 0
      have hpos : (s.cnt.setWidth 16 - 1).toNat = s.cnt.toNat - 1 := by
        rw [BitVec.toNat_sub, BitVec.toNat_setWidth]
        simp
        omega
      refine ⟨hbuf, ?_, hframe⟩
      simp only [TextInv, hpos]
      omega
    · refine ⟨hbuf, ?_, hframe⟩
      simp only [TextInv, hp]
      exact ⟨by omega, hle, hstar⟩
  · split_ifs with hlast
    · refine ⟨hbuf, ?_, hframe⟩
      simp only [TextInv]
      omega
    · refine ⟨hbuf, ?_, hframe⟩
      simp only [TextInv, hp]
      omega
  · exact textEnd_keeps b hbuf hframe hp hone hcnt hle

/-- Rules R172 and R173. -/
theorem textByte_keeps (b : Byte) {s : State} (hcap : bufCapacity s.cfg ≤ 65536) (hp : s.phase ≠ .sync)
    (h : PushInv TextInv s) : PushInv TextInv (textByte b s) := by
  unfold textByte
  split_ifs with hfull
  · exact ⟨h.buf, ⟨rfl, rfl⟩, h.frame⟩
  have hcnt : (takeByte b s).cnt.toNat = s.cnt.toNat + 1 := cnt_succ rfl (by omega)
  refine textPhase_keeps b (h.buf.set b (by omega)) h.frame (by rw [hcnt, takeByte_cfg]; omega) hcap ?_
  rw [hcnt, takeByte_phase, takeByte_star]
  have hi := h.framer
  unfold TextInv at hi
  split at hi
  case h_1 hsync => exact absurd hsync hp
  case h_2 htbody =>
    obtain ⟨hone, -, hstar⟩ := hi
    exact .inl ⟨htbody, by omega, hstar⟩
  case h_3 htck => exact .inr (.inl ⟨htck, by omega⟩)
  case h_4 htend => exact .inr (.inr ⟨htend, by omega⟩)
  all_goals exact hi.elim

theorem textStep_keeps (b : Byte) {s : State} (hc : cfgWf s.cfg = true) (hP : s.cfg.proto = .nmea)
    (h : PushInv TextInv s) : PushInv TextInv (textStep b s) := by
  obtain ⟨hone, hcap⟩ := capacity_bounds hc
  have hone : 1 ≤ bufCapacity s.cfg := by simpa [lKnownOf, hP] using hone
  unfold textStep
  split_ifs with hm hp
  · exact ⟨h.buf.set b (by omega), ⟨le_refl _, hone, rfl⟩, h.frame⟩
  · exact h
  · exact textByte_keeps b hcap hp h

/-! ### The legacy machine keeps its invariant -/

/-- The completion of R180, on whole words inside a frame that fits. -/
theorem legacyComplete_keeps {s : State} (hp : s.phase = .ldata) (hbuf : BufInv s) (hframe : FrameInv s)
    (hbit : s.nbit.toNat < 30) (hlen : s.hlen = 6) (hcnt : 6 ≤ s.cnt.toNat) (hwords : s.cnt.toNat % 3 = 0)
    (hplen : s.plen.toNat % 3 = 0) (hle : s.cnt.toNat ≤ 6 + s.plen.toNat)
    (hfit : 6 + s.plen.toNat ≤ bufCapacity s.cfg) : PushInv LegacyInv (legacyComplete s) := by
  have hlen' : s.hlen.toNat = 6 := by rw [hlen]; rfl
  unfold legacyComplete
  split_ifs with hmore
  · refine ⟨hbuf, ?_, hframe⟩
    simp only [LegacyInv, hp]
    exact ⟨hbit, .inr ⟨hcnt, hwords, hlen, hplen, by omega, hfit⟩⟩
  · refine ⟨hbuf, rfl, fun _ => ?_⟩
    show s.cnt.toNat ≤ bufCapacity s.cfg ∧ 6 + s.plen.toNat ≤ s.cnt.toNat
    omega

/-- Rule R180: the second word of a frame gives its length, the later ones fit in it. -/
theorem legacyLength_keeps {s : State} (hp : s.phase = .ldata) (hbuf : BufInv s) (hframe : FrameInv s)
    (hbit : s.nbit.toNat < 30)
    (hcnt : s.cnt.toNat = 6 ∨ (6 < s.cnt.toNat ∧ s.cnt.toNat % 3 = 0 ∧ s.hlen = 6 ∧ s.plen.toNat % 3 = 0 ∧
      s.cnt.toNat ≤ 6 + s.plen.toNat ∧ 6 + s.plen.toNat ≤ bufCapacity s.cfg)) :
    PushInv LegacyInv (legacyLength s) := by
  have hbyte : byteNat s.buf 5 < 256 := (Memory.byteAt s.buf 5).isLt
  have hmod : byteNat s.buf 5 / 8 * 3 % 3 = 0 := by omega
  have hsmall : byteNat s.buf 5 / 8 * 3 < 2 ^ 16 := by omega
  simp only [legacyLength]
  generalize byteNat s.buf 5 / 8 * 3 = pl at *
  split_ifs with h6 hbig
  · exact ⟨hbuf, rfl, hframe⟩
  · have hpl : (BitVec.ofNat 16 pl).toNat = pl := by rw [BitVec.toNat_ofNat]; exact Nat.mod_eq_of_lt hsmall
    refine legacyComplete_keeps (s := { s with hlen := 6, plen := BitVec.ofNat 16 pl }) hp hbuf hframe hbit rfl h6.ge
      (by rw [h6]) ?_ ?_ ?_
    all_goals dsimp only; omega
  · obtain h | ⟨hgt, hwords, hlen, hplen, hle, hfit⟩ := hcnt
    · exact absurd h h6
    · exact legacyComplete_keeps hp hbuf hframe hbit hlen hgt.le hwords hplen hle hfit

/-- Rule R179: a word of three bytes is stored at `CNT`, where a whole word is left. -/
theorem legacyWord_keeps {s : State} (hcap : 6 ≤ bufCapacity s.cfg ∧ bufCapacity s.cfg ≤ 65536) (hp : s.phase = .ldata)
    (h : PushInv LegacyInv s) : PushInv LegacyInv (legacyWord s) := by
  have hi := h.framer
  simp only [LegacyInv, hp] at hi
  obtain ⟨hbit, hwords⟩ := hi
  have hfit : s.cnt.toNat + 3 ≤ bufCapacity s.cfg := by omega
  have hcnt : (s.cnt + 3).toNat = s.cnt.toNat + 3 := by
    rw [BitVec.toNat_add]
    simp
    omega
  unfold legacyWord
  split_ifs
  · refine legacyLength_keeps (s := { s with buf := memWrite s.buf s.cnt.toNat (hamBytes s.word), cnt := s.cnt + 3 })
      hp (h.buf.memWrite hfit) h.frame hbit ?_
    dsimp only
    obtain h3 | ⟨h6, hmod, hlen, hplen, hlt, hle⟩ := hwords
    · exact .inl (by omega)
    · exact .inr ⟨by omega, by omega, hlen, hplen, by omega, hle⟩
  · exact ⟨h.buf, rfl, h.frame⟩

/-- Rule R178: the first word is stored at 0. -/
theorem legacySearch_keeps {s : State} (hcap : 6 ≤ bufCapacity s.cfg) (h : PushInv LegacyInv s) :
    PushInv LegacyInv (legacySearch s) := by
  unfold legacySearch
  split_ifs
  · exact ⟨h.buf.memWrite (show 0 + 3 ≤ _ by omega), ⟨Nat.zero_lt_succ 29, .inl rfl⟩, h.frame⟩
  · exact h

/-- Rule R179. -/
theorem legacyCollect_keeps {s : State} (hcap : 6 ≤ bufCapacity s.cfg ∧ bufCapacity s.cfg ≤ 65536)
    (hp : s.phase = .ldata) (h : PushInv LegacyInv s) : PushInv LegacyInv (legacyCollect s) := by
  have hi := h.framer
  simp only [LegacyInv, hp] at hi
  obtain ⟨hbit, hwords⟩ := hi
  unfold legacyCollect
  split_ifs with hmore
  · refine ⟨h.buf, ?_, h.frame⟩
    simp only [LegacyInv, hp]
    refine ⟨?_, hwords⟩
    rw [BitVec.toNat_add]
    exact (Nat.mod_le _ _).trans_lt hmore
  · refine legacyWord_keeps (s := { s with nbit := 0 }) hcap hp ⟨h.buf, ?_, h.frame⟩
    simp only [LegacyInv, hp]
    exact ⟨Nat.zero_lt_succ 29, hwords⟩

theorem LegacyInv.phase_cases {s : State} (h : LegacyInv s) : s.phase = .sync ∨ s.phase = .ldata := by
  unfold LegacyInv at h
  split at h
  case h_1 hp => exact .inl hp
  case h_2 hp => exact .inr hp
  all_goals exact h.elim

/-- One bit (R177). -/
theorem legacyBit_keeps (v : Bool) {s : State} (hcap : 6 ≤ bufCapacity s.cfg ∧ bufCapacity s.cfg ≤ 65536)
    (h : PushInv LegacyInv s) : PushInv LegacyInv (legacyBit s v) := by
  unfold legacyBit
  extract_lets t
  have ht : PushInv LegacyInv t := ⟨h.buf, h.framer, h.frame⟩
  split_ifs with hp
  · exact legacySearch_keeps hcap.1 ht
  · exact legacyCollect_keeps hcap (ht.framer.phase_cases.resolve_left hp) ht

/-! ### `PUSH` keeps the invariant -/

theorem framerInv_generic {g : Generic} {s : State} (hg : genericOf s.cfg.proto = some g) :
    FramerInv s ↔ GenericInv g s := by
  unfold FramerInv
  cases hP : s.cfg.proto <;> simp_all [genericOf]

theorem framerInv_text {s : State} (hP : s.cfg.proto = .nmea) : FramerInv s ↔ TextInv s := by simp [FramerInv, hP]

theorem framerInv_legacy {s : State} (hP : s.cfg.proto = .legacy) : FramerInv s ↔ LegacyInv s := by
  simp [FramerInv, hP]

theorem PushInv.mono {F G : State → Prop} {s : State} (h : PushInv F s) (hFG : F s → G s) : PushInv G s :=
  ⟨h.buf, hFG h.framer, h.frame⟩

/-- One byte, in the framer of any protocol. -/
theorem framerStep_keeps (b : Byte) {s : State} (hc : cfgWf s.cfg = true) (h : PushInv FramerInv s) :
    PushInv FramerInv (framerStep b s) := by
  have hcfg : (framerStep b s).cfg = s.cfg := (framerStep_one b s).1.1
  cases hg : genericOf s.cfg.proto with
  | some g =>
    have hstep : framerStep b s = genericStep g b s := (genericOf_step hg b).1
    have hrun := genericStep_keeps b hc hg (h.mono (framerInv_generic hg).1)
    rw [← hstep] at hrun
    exact hrun.mono (framerInv_generic (by rw [hcfg]; exact hg)).2
  | none =>
    have hP : s.cfg.proto = .nmea ∨ s.cfg.proto = .legacy := by
      cases hP : s.cfg.proto <;> simp_all [genericOf]
    obtain hP | hP := hP
    · have hstep : framerStep b s = textStep b s := by simp [framerStep, hP]
      have hrun := textStep_keeps b hc hP (h.mono (framerInv_text hP).1)
      rw [← hstep] at hrun
      exact hrun.mono (framerInv_text (by rw [hcfg]; exact hP)).2
    · have hstep : framerStep b s = legacyStep b s := by simp [framerStep, hP]
      obtain ⟨hlow, hhigh⟩ := capacity_bounds hc
      have hlow : 6 ≤ bufCapacity s.cfg := by simpa [lKnownOf, hP] using hlow
      have hrun : (legacyStep b s).cfg = s.cfg ∧ PushInv LegacyInv (legacyStep b s) := by
        refine legacyStep_keeps (P := fun t => t.cfg = s.cfg ∧ PushInv LegacyInv t) (fun t v ht => ?_) b
          ⟨rfl, h.mono (framerInv_legacy hP).1⟩
        obtain ⟨htc, ht⟩ := ht
        exact ⟨(legacyBit_one v t (by rw [htc]; exact hP)).1.1.trans htc,
          legacyBit_keeps v (by rw [htc]; exact ⟨hlow, hhigh⟩) ht⟩
      rw [← hstep] at hrun
      exact hrun.2.mono (framerInv_legacy (by rw [hcfg]; exact hP)).2

/-- The framer reports no kind but `SIZE` and `CHECKSUM` (R251, R260). -/
theorem framerStep_reported (b : Byte) {s : State} (h : reportedKind s.lastErr = true) :
    reportedKind (framerStep b s).lastErr = true := by
  obtain ⟨-, hle, -⟩ | ⟨_, _, _, _, -, hle, -⟩ | ⟨k, _, hk, -, hle, -⟩ := (framerStep_one b s).2.1
  · rwa [hle]
  · rwa [hle]
  · rw [hle]
    obtain rfl | rfl := hk <;> rfl

/-! ### The invariant of the machine -/

/-- A framer back in `SYNC` with its counters cleared has its invariant, whatever the protocol (R37, R151). -/
theorem framerInv_sync {s : State} (hc : cfgWf s.cfg = true) (hp : s.phase = .sync) (h0 : s.cnt = 0) (hs : s.star = 0) :
    FramerInv s := by
  cases hP : s.cfg.proto
  case nmea => rw [framerInv_text hP, TextInv, hp]; exact ⟨h0, hs⟩
  case legacy => rw [framerInv_legacy hP, LegacyInv, hp]; exact h0
  all_goals
    exact (framerInv_generic (by rw [hP]; rfl)).2 (genericInv_sync hc (by rw [hP]; rfl) hp h0)

/-- A record that decodes meets R34, and its lists are as long as its counts say. -/
theorem msmFileOf_inv {c : MsmCfg} {m : Memory} {g : GnssSys} {x : Variant} {p l : Nat}
    (h : msmDefect c m x p l = none) {s : State} (hs : s.msm = msmFileOf c m g x p) : MsmInv s := by
  intro _
  obtain ⟨hnsat, hnsig, hncell, hle, hsats, hcells⟩ := msmFile_counts c m g x p l h
  rw [hs, hnsat, hnsig, hncell]
  exact ⟨hle, nCell_le c m p hle, hsats, hcells⟩

/-- Every command keeps the invariant. -/
theorem effect_keeps_stateInv {i : Instr} {s t : State} (heff : CommandEffect i s t) (h : StateInv s) : StateInv t := by
  have hs := h
  obtain ⟨hc, hbuf, hframer, hframe, hmsm, herr⟩ := h
  cases heff with
  | refused => exact hs
  | registers => exact hs
  | bytes m pos hw hpush hpos hwf hidx =>
    exact ⟨hc, ⟨hwf hbuf.1, fun e he => (hidx e he).elim (hbuf.2 e) id⟩, hframer, nofun, hmsm, herr⟩
  | reset => exact ⟨hc, hbuf, framerInv_sync hc rfl rfl rfl, nofun, hmsm, rfl⟩
  | push b _ _ =>
    obtain ⟨hcfg, -, -, -, hmvalid, -, -, hfile, -⟩ := (framerStep_one b (clearPushFlags s)).1
    obtain ⟨hbuf', hframer', hframe'⟩ := framerStep_keeps b (s := clearPushFlags s) hc ⟨hbuf, hframer, nofun⟩
    have hmsm' : MsmInv (framerStep b (clearPushFlags s)) := by
      rw [MsmInv, hmvalid, hfile]
      exact hmsm
    exact ⟨by rw [← hc, reportDone_cfg, hcfg]; rfl, hbuf', hframer', hframe', hmsm', framerStep_reported b rfl⟩
  | msmdec sys z x p l _ g =>
    obtain ⟨k, hk, hrun⟩ | ⟨hok, hrun⟩ := msmRun_cases g (variantOf x) p.toNat l.toNat s
    · rw [hrun]
      exact ⟨hc, hbuf, hframer, hframe, nofun, by obtain rfl | rfl := hk <;> rfl⟩
    · rw [hrun]
      exact ⟨hc, hbuf, hframer, hframe, msmFileOf_inv hok rfl, rfl⟩

/-- Settles O59: every effect of a command keeps the invariant. -/
theorem everyStepKeepsTheInvariant : Obligations.EveryStepKeepsTheInvariant :=
  fun _ _ hs h => step_keeps (P := StateInv) (fun _ _ h => h) (fun _ _ _ => effect_keeps_stateInv) hs h

theorem stateInv_resetWith {c : Cfg} (hc : cfgWf c = true) : StateInv (State.resetWith c) :=
  ⟨hc, ⟨.nil, nofun⟩, framerInv_sync hc rfl rfl rfl, nofun, nofun, rfl⟩

/-- Settles O60: an empty buffer, a framer in `SYNC`, no frame, no file, no error. -/
theorem resetHasTheInvariant : Obligations.ResetHasTheInvariant :=
  ⟨fun _ => stateInv_resetWith, stateInv_resetWith (by decide)⟩

end Sys2Proof.Machine
end

section
/-! Proofs for 20_memory.md: what lies outside `BUF` (R58, R59), bit fields read and written (R104 to R107), and the
reception of a whole RTCM v3 frame into it (R53, R182). -/

namespace Sys2Proof.Machine

/-! ### The shared operand forms, branch by branch -/

theorem widthInRange_iff (w : BitVec 8) : widthInRange w = true ↔ 1 ≤ w.toNat ∧ w.toNat ≤ 32 := by
  simp [widthInRange]

/-- R79: the width is tested first. -/
theorem bitAccess_refused {w : BitVec 8} (f : Nat → Nat → State → State) (s : State)
    (h : w.toNat = 0 ∨ 32 < w.toNat) : bitAccess w f s = .next { s with ill := true } := by
  have hw : ¬ widthInRange w = true := by rw [widthInRange_iff]; omega
  rw [bitAccess, if_neg hw, exec_refuse]

theorem bitAccess_fault {w : BitVec 8} (f : Nat → Nat → State → State) {s : State} (h1 : 1 ≤ w.toNat)
    (h32 : w.toNat ≤ 32) (hout : 8 * bufCapacity s.cfg < s.bitoff.toNat + w.toNat) :
    bitAccess w f s = .fault .bitFieldOutOfBounds := by
  have hf : ¬ fieldInBuf s w.toNat = true := by simp [fieldInBuf]; omega
  rw [bitAccess, if_pos ((widthInRange_iff w).2 ⟨h1, h32⟩), if_neg hf]

theorem bitAccess_inside {w : BitVec 8} (f : Nat → Nat → State → State) {s : State} (h1 : 1 ≤ w.toNat)
    (h32 : w.toNat ≤ 32) (hin : s.bitoff.toNat + w.toNat ≤ 8 * bufCapacity s.cfg) :
    bitAccess w f s = .next (advance w.toNat (f s.bitoff.toNat w.toNat s)) :=
  bitAccess_ok ((widthInRange_iff w).2 ⟨h1, h32⟩) (by simpa [fieldInBuf] using hin)

/-- The cursor does not wrap while it stays inside the buffer: 8 * `BUF_CAP` is below 2^20 (R104). -/
theorem bitoff_add_toNat {s : State} {w : Nat} (hin : s.bitoff.toNat + w ≤ 8 * bufCapacity s.cfg) :
    (s.bitoff + BitVec.ofNat 32 w).toNat = s.bitoff.toNat + w := by
  have hcap : bufCapacity s.cfg < 2 ^ 17 := s.cfg.bufCap.isLt
  rw [BitVec.toNat_add, BitVec.toNat_ofNat]
  omega

theorem onSpan_refused {a : BitVec 16} {l : Word} (f : List Byte → State → State) {s : State}
    (hout : bufCapacity s.cfg < a.toNat + l.toNat) : onSpan a l f s = .next { s with ill := true } := by
  have hf : ¬ spanInBuf s a.toNat l.toNat = true := by simpa [spanInBuf] using hout
  rw [onSpan, if_neg hf, exec_refuse]

theorem indexInBuf_eq_false {s : State} {idx : BitVec 16} (hout : bufCapacity s.cfg ≤ idx.toNat) :
    indexInBuf s idx = false := by
  simpa [indexInBuf] using hout

theorem execMsmdec_outside (sys : BitVec 4) (z : BitVec 3) (x : BitVec 1) {p l : Word} {s : State}
    (hout : bufCapacity s.cfg < p.toNat + l.toNat) : execMsmdec sys z x p l s = .next { s with ill := true } := by
  have hf : ¬ spanInBuf s p.toNat l.toNat = true := by simpa [spanInBuf] using hout
  unfold execMsmdec
  split
  · rfl
  · rw [if_neg fun h => hf h.2, exec_refuse]

/-- Settles O7: every command tests its operands through one of the shared forms. -/
theorem accessOutsideTheBuffer : Obligations.AccessOutsideTheBuffer := by
  refine fun s => ⟨fun idx hout => ?_, fun a l hout => ?_, fun sys z x p l hout => execMsmdec_outside sys z x hout,
    fun w h1 h32 hout => ?_⟩
  · have hidx := indexInBuf_eq_false hout
    exact ⟨by simp [exec, execBufrd, refuse, hidx], fun b => by simp [exec, execBufwr, refuse, hidx]⟩
  · simp [exec, execCkcCrc24q, execCkcCrc32, execCkcFlet, execCkcXor, execCkvCrc24q, execCkvCrc32, execCkvFlet,
      execCkvXor, onSpan_refused _ hout]
  · exact ⟨bitAccess_fault _ h1 h32 hout, bitAccess_fault _ h1 h32 hout,
      fun _ => bitAccess_fault _ h1 h32 hout, fun _ => bitAccess_fault _ h1 h32 hout⟩

/-! ### Reading a field -/

@[simp] theorem readUnsigned_res0 (p w : Nat) (s : State) :
    (readUnsigned p w s).res0 = BitVec.ofNat 32 (getU s.buf p w) := rfl

@[simp] theorem readSigned_res0 (p w : Nat) (s : State) :
    (readSigned p w s).res0 = BitVec.ofInt 32 (getS s.buf p w) := rfl

/-- Settles O14: a field of at most 32 bits fits `RES0`. -/
theorem rduReadsTheUnsignedField : Obligations.RduReadsTheUnsignedField := by
  refine fun s w => ⟨bitAccess_refused _ s, bitAccess_fault _, fun h1 h32 hin =>
    ⟨_, _, bitAccess_inside _ h1 h32 hin, ?_, bitoff_add_toNat hin⟩⟩
  have hlt : getU s.buf s.bitoff.toNat w.toNat < 2 ^ 32 :=
    (getU_lt ..).trans_le (Nat.pow_le_pow_right two_pos h32)
  rw [readUnsigned_res0, BitVec.toNat_ofNat, Nat.mod_eq_of_lt hlt]

/-- The first bit of a field is its most significant (R100). -/
theorem getU_succ_first (m : Memory) (p w : Nat) :
    getU m p (w + 1) = (bitAt m p).toNat * 2 ^ w + getU m (p + 1) w := by
  induction w with
  | zero => simp [getU]
  | succ w ih => rw [getU, ih, getU, show p + (w + 1) = p + 1 + w by omega, pow_succ]; ring

/-- A signed field of `w + 1` bits: the bits below the sign bit, less `2 ^ w` when it is set (R101). -/
theorem getS_succ (m : Memory) (p w : Nat) :
    getS m p (w + 1) = (getU m (p + 1) w : Int) - (bitAt m p).toNat * 2 ^ w := by
  cases hb : bitAt m p with
  | false => simp [getS, getU_succ_first, hb]
  | true => simp [getS, getU_succ_first, hb, pow_succ]; ring

/-- The range of a signed field (R101). -/
theorem getS_range (m : Memory) (p w : Nat) :
    -2 ^ w ≤ getS m p (w + 1) ∧ getS m p (w + 1) < 2 ^ w := by
  have hlt : (getU m (p + 1) w : Int) < 2 ^ w := by exact_mod_cast getU_lt m (p + 1) w
  rw [getS_succ]
  cases bitAt m p <;> simp <;> omega

/-- Settles O15: a signed field of at most 32 bits fits `RES0` in two's complement. -/
theorem rdsReadsTheSignedField : Obligations.RdsReadsTheSignedField := by
  refine fun s w => ⟨bitAccess_refused _ s, bitAccess_fault _, fun h1 h32 hin =>
    ⟨_, _, bitAccess_inside _ h1 h32 hin, ?_, bitoff_add_toNat hin⟩⟩
  obtain ⟨n, hn⟩ : ∃ n, w.toNat = n + 1 := ⟨w.toNat - 1, by omega⟩
  obtain ⟨hlo, hhi⟩ := getS_range s.buf s.bitoff.toNat n
  have hpow : (2 : Int) ^ n ≤ 2 ^ 31 := pow_le_pow_right₀ one_le_two (by omega)
  rw [readSigned_res0, hn]
  exact BitVec.toInt_ofInt_eq_self (by decide) (by omega) (by omega)

/-! ### Writing a field -/

@[simp] theorem writeField_buf (v : Word) (p w : Nat) (s : State) :
    (writeField v p w s).buf = putU s.buf p w (v.toNat % 2 ^ w) := rfl

/-- What is written in a field is read from it (R103). -/
theorem getU_putU_same (m : Memory) (p w v : Nat) : getU (putU m p w v) p w = v % 2 ^ w := by
  induction w generalizing v with
  | zero => simp [getU, Nat.mod_one]
  | succ w ih =>
    have hfirst : getU (putU m p (w + 1) v) p w = getU (putU m p w (v / 2)) p w :=
      getU_congr fun i hi => by rw [putU, bitAt_setBitAt, if_neg (by omega)]
    have hlast : (bitAt (putU m p (w + 1) v) (p + w)).toNat = v % 2 := by
      rw [putU, bitAt_setBitAt, if_pos rfl]
      obtain h | h := Nat.mod_two_eq_zero_or_one v <;> simp [h]
    rw [getU, hfirst, ih, hlast, Nat.pow_succ', Nat.mod_mul]
    omega

/-- Settles O16: the field by `getU_putU_same`, its frame by bits and by bytes. -/
theorem wruWritesTheField : Obligations.WruWritesTheField := by
  refine fun s w v => ⟨bitAccess_refused _ s, bitAccess_fault _, fun h1 h32 hin =>
    ⟨_, _, bitAccess_inside _ h1 h32 hin, ?_, fun q => bitAt_putU_outside _ _ _ _ q,
      fun a => byteAt_putU_outside _ _ _ _ a, bitoff_add_toNat hin⟩⟩
  rw [writeField_buf, getU_putU_same, Nat.mod_mod]

/-! ### A whole RTCM v3 frame -/

/-- A byte list that is a valid RTCM v3 frame and fits the buffer (R53, R162). -/
structure RtcmFrame (c : Cfg) (fr : List Byte) : Prop where
  sync : fr.getD 0 0 = 0xD3
  declared : fr.length = (fr.getD 1 0).toNat % 4 * 256 + (fr.getD 2 0).toNat + 6
  fits : fr.length ≤ bufCapacity c
  checked : (crc24q c (fr.take (fr.length - 3))).toNat =
    (fr.getD (fr.length - 3) 0).toNat * 65536 + (fr.getD (fr.length - 2) 0).toNat * 256 +
      (fr.getD (fr.length - 1) 0).toNat

/-- The first `n` bytes of the buffer are those of the frame. -/
def HoldsPrefix (fr : List Byte) (n : Nat) (m : Memory) : Prop := ∀ i < n, Memory.byteAt m i = fr.getD i 0

theorem HoldsPrefix.store {fr : List Byte} {n : Nat} {m : Memory} (h : HoldsPrefix fr n m) :
    HoldsPrefix fr (n + 1) (Memory.set m n (fr.getD n 0)) := by
  intro i hi
  rw [byteAt_set]
  split_ifs with hin
  · rw [hin]
  · exact h i (by omega)

theorem HoldsPrefix.memRead_eq_take {fr : List Byte} {n k : Nat} {m : Memory} (h : HoldsPrefix fr n m)
    (hk : k ≤ n) (hn : n ≤ fr.length) : memRead m 0 k = fr.take k := by
  refine List.ext_getElem (by simp [memRead]; omega) fun i hi _ => ?_
  have hik : i < k := by simpa [memRead] using hi
  simp [memRead, h i (by omega), List.getElem?_eq_getElem (show i < fr.length by omega)]

/-- The framer in the middle of an RTCM v3 frame: `n` bytes are in the buffer, nothing is emitted yet, and the
lengths are set once the header is in (R155, R156). -/
structure RtcmReceiving (fr : List Byte) (s₀ : State) (n : Nat) (s : State) : Prop where
  cfg : s.cfg = s₀.cfg
  events : s.events = s₀.events
  phase : s.phase ≠ .sync
  cnt : s.cnt.toNat = n
  bytes : HoldsPrefix fr n s.buf
  lengths : 3 ≤ n → s.hlen.toNat = 3 ∧ s.plen.toNat = fr.length - 6

/-- The message id, the 12 bits after the header (R163). -/
def rtcmId (fr : List Byte) : Nat := (fr.getD 3 0).toNat * 16 + (fr.getD 4 0).toNat / 16

theorem rtcmId_lt (fr : List Byte) : rtcmId fr < 2 ^ 12 := by
  unfold rtcmId; omega

/-- What the state shows when the frame is complete (R158). -/
structure RtcmReceived (fr : List Byte) (s₀ t : State) : Prop where
  events : t.events = s₀.events ++
    [.frame 0 (.num (BitVec.ofNat 32 (rtcmId fr))) fr 3 (fr.length - 6)]
  phase : t.phase = .sync
  cnt : t.cnt = 0
  fvalid : t.fvalid = true
  done : t.done = true
  frLen : t.frLen.toNat = fr.length

/-- Rule R157 before the last byte only names the phase. -/
theorem phaseStep_incomplete {g : Generic} {s : State}
    (h : s.cnt.toNat < s.hlen.toNat + s.plen.toNat + ckBytes g) :
    ∃ ph, ph ≠ .sync ∧ phaseStep g s = { s with phase := ph } := by
  unfold phaseStep
  split_ifs
  · exact ⟨.header, by decide, rfl⟩
  · exact ⟨.payload, by decide, rfl⟩
  · exact ⟨.check, by decide, rfl⟩

/-- Rule R157 at the last byte completes the frame. -/
theorem phaseStep_complete {g : Generic} {s : State}
    (h : s.cnt.toNat = s.hlen.toNat + s.plen.toNat + ckBytes g) : phaseStep g s = completeFrame g s := by
  unfold phaseStep
  rw [if_neg (by omega), if_neg (by omega), if_neg (by omega)]

/-! ### Reception, byte by byte -/

section Reception
variable {fr : List Byte} {s₀ s : State} {n : Nat}

/-- Rule R156 on the header of a frame that fits takes its lengths. -/
theorem lengthStep_rtcm (hf : RtcmFrame s.cfg fr) (hb : HoldsPrefix fr 3 s.buf) :
    lengthStep .rtcm3 s =
      phaseStep .rtcm3 { s with hlen := BitVec.ofNat 16 3, plen := BitVec.ofNat 16 (fr.length - 6) } := by
  have hdecl := hf.declared
  have hfits := hf.fits
  have hpl : payloadLen s.cfg s.buf .rtcm3 = (fr.length - 6 : Nat) := by
    simp only [payloadLen, byteNat, hb 1 (by decide), hb 2 (by decide)]
    omega
  have h3 : headerLen s.cfg s.buf .rtcm3 = 3 := rfl
  simp only [lengthStep, hpl, h3, Int.toNat_natCast]
  rw [if_neg (by simp [lKnown]), if_neg (by simp only [ckBytes]; omega)]

/-- The next byte of the frame goes to `BUF[CNT]`; from the third byte on rule R157 follows (R155, R156). -/
theorem RtcmReceiving.takes_byte (hc : cfgWf s₀.cfg = true) (hf : RtcmFrame s₀.cfg fr)
    (h : RtcmReceiving fr s₀ n s) (hlt : n < fr.length) : ∃ u, RtcmReceiving fr s₀ (n + 1) u ∧
      frameByte .rtcm3 (fr.getD n 0) s = if n + 1 < 3 then u else phaseStep .rtcm3 u := by
  obtain ⟨hcfg, hev, hph, hcnt, hb, hlen⟩ := h
  have hcap := (capacity_bounds hc).2
  have hfits := hf.fits
  have hcnt' : (takeByte (fr.getD n 0) s).cnt.toNat = n + 1 := cnt_succ (by rw [hcnt]) (by omega)
  have hb' : HoldsPrefix fr (n + 1) (takeByte (fr.getD n 0) s).buf := by
    rw [takeByte_buf, hcnt]; exact hb.store
  simp only [frameByte, hcnt', lKnown]
  split_ifs with hlo heq
  · exact ⟨takeByte _ s, ⟨hcfg, hev, hph, hcnt', hb', fun hge => by omega⟩, rfl⟩
  · rw [heq] at hb'
    refine ⟨{ takeByte _ s with hlen := BitVec.ofNat 16 3, plen := BitVec.ofNat 16 (fr.length - 6) },
      ⟨hcfg, hev, hph, hcnt', heq ▸ hb', fun _ => ⟨rfl, ?_⟩⟩,
      lengthStep_rtcm (s := takeByte _ s) (hcfg ▸ hf) hb'⟩
    rw [BitVec.toNat_ofNat]; omega
  · exact ⟨takeByte _ s, ⟨hcfg, hev, hph, hcnt', hb', fun _ => hlen (by omega)⟩, rfl⟩

/-- A byte before the last is stored and nothing else happens (R155 to R157). -/
theorem RtcmReceiving.next_byte (hc : cfgWf s₀.cfg = true) (hf : RtcmFrame s₀.cfg fr)
    (h : RtcmReceiving fr s₀ n s) (hlt : n + 1 < fr.length) :
    RtcmReceiving fr s₀ (n + 1) (frameByte .rtcm3 (fr.getD n 0) s) := by
  obtain ⟨u, hu, hstep⟩ := h.takes_byte hc hf (by omega)
  rw [hstep]
  split_ifs with hlo
  · exact hu
  · obtain ⟨hcfg, hev, -, hcnt, hb, hlen⟩ := hu
    obtain ⟨hhl, hpl⟩ := hlen (by omega)
    obtain ⟨ph, hne, hphase⟩ := phaseStep_incomplete (g := .rtcm3) (s := u)
      (by rw [hcnt, hhl, hpl, ckBytes]; omega)
    rw [hphase]
    exact ⟨hcfg, hev, hne, hcnt, hb, hlen⟩

/-- The check of R158 passes on a whole frame. -/
theorem frameChecks_rtcm (hf : RtcmFrame s.cfg fr) (hb : HoldsPrefix fr fr.length s.buf) (hhl : s.hlen.toNat = 3)
    (hpl : s.plen.toNat = fr.length - 6) : frameChecks .rtcm3 s = true := by
  have hdecl := hf.declared
  have he : s.hlen.toNat + s.plen.toNat = fr.length - 3 := by omega
  have hcrc : ckCompute s.cfg (memRead s.buf 0 (fr.length - 3)) .rtcm3 = ckReceived s.buf (fr.length - 3) .rtcm3 := by
    simp only [ckCompute, ckReceived, byteNat]
    rw [hb.memRead_eq_take (by omega) le_rfl, hf.checked, hb _ (by omega), hb _ (by omega), hb _ (by omega),
      show fr.length - 3 + 1 = fr.length - 2 by omega, show fr.length - 3 + 2 = fr.length - 1 by omega]
  simp [frameChecks, he, ckStart, hcrc]

/-- The last byte completes the frame (R158). -/
theorem RtcmReceiving.last_byte (hc : cfgWf s₀.cfg = true) (hf : RtcmFrame s₀.cfg fr)
    (h : RtcmReceiving fr s₀ n s) (hlast : n + 1 = fr.length) :
    RtcmReceived fr s₀ (frameByte .rtcm3 (fr.getD n 0) s) := by
  have hdecl := hf.declared
  obtain ⟨u, ⟨hcfg, hev, -, hcnt, hb, hlen⟩, hstep⟩ := h.takes_byte hc hf (by omega)
  obtain ⟨hhl, hpl⟩ := hlen (by omega)
  rw [hlast] at hcnt hb
  rw [hstep, if_neg (by omega), phaseStep_complete (by rw [hcnt, hhl, hpl, ckBytes]; omega), completeFrame,
    if_pos (frameChecks_rtcm (hcfg ▸ hf) hb hhl hpl)]
  refine ⟨?_, rfl, rfl, rfl, rfl, hcnt⟩
  simp only [toSync_events, acceptFrame, emit_events, hcnt, hb.memRead_eq_take le_rfl le_rfl, List.take_length, frameId,
    byteNat, hb 3 (by omega), hb 4 (by omega), hev, hhl, hpl]
  rfl

/-- A byte whose `PUSH` answers leaves the rest to the state it answers with (R84). -/
theorem pushn_cons {b : Byte} {s t : State} (bs : List Byte) (h : exec (.push b) s = .next t) :
    pushn (b :: bs) s = pushn bs t := by
  simp [pushn, call, h, andThen]

/-- In the middle of an RTCM v3 frame `PUSH` takes every byte: there is no resynchronisation (R159, `MIDSYNC` 0). -/
theorem RtcmReceiving.push (b : Byte) (hc : cfgWf s₀.cfg = true) (hproto : s₀.cfg.proto = .rtcm3)
    (h : RtcmReceiving fr s₀ n s) :
    exec (.push b) s = .next (reportDone (frameByte .rtcm3 b (clearPushFlags s))) :=
  push_outside_sync b (h.cfg ▸ hc) (by rw [h.cfg, hproto]; rfl) h.phase (by simp [midSync])

theorem RtcmReceiving.cleared (h : RtcmReceiving fr s₀ n s) : RtcmReceiving fr s₀ n (clearPushFlags s) :=
  ⟨h.cfg, h.events, h.phase, h.cnt, h.bytes, h.lengths⟩

theorem RtcmReceiving.reported (h : RtcmReceiving fr s₀ n s) : RtcmReceiving fr s₀ n (reportDone s) :=
  ⟨h.cfg, h.events, h.phase, h.cnt, h.bytes, h.lengths⟩

theorem RtcmReceived.reported (h : RtcmReceived fr s₀ s) : RtcmReceived fr s₀ (reportDone s) :=
  ⟨h.events, h.phase, h.cnt, h.fvalid, h.done, h.frLen⟩

/-- The rest of the frame, by induction on how many bytes are still to come. -/
theorem RtcmReceiving.pushn_rest (hc : cfgWf s₀.cfg = true) (hproto : s₀.cfg.proto = .rtcm3)
    (hf : RtcmFrame s₀.cfg fr) (n : Nat) (s : State) (h : RtcmReceiving fr s₀ n s) (hlt : n < fr.length) :
    ∃ t, pushn (fr.drop n) s = .next ((), t) ∧ RtcmReceived fr s₀ t := by
  have hdrop : fr.drop n = fr.getD n 0 :: fr.drop (n + 1) := by
    rw [List.drop_eq_getElem_cons hlt, List.getD_eq_getElem _ _ hlt]
  rw [hdrop, pushn_cons _ (h.push _ hc hproto)]
  obtain hmore | hlast : n + 1 < fr.length ∨ n + 1 = fr.length := by omega
  · exact pushn_rest hc hproto hf (n + 1) _ (h.cleared.next_byte hc hf hmore).reported hmore
  · rw [hlast, List.drop_length]
    exact ⟨_, rfl, (h.cleared.last_byte hc hf hlast).reported⟩
termination_by fr.length - n

/-- The sync byte starts the frame (R154). -/
theorem push_rtcm_sync (hc : cfgWf s.cfg = true) (hproto : s.cfg.proto = .rtcm3) (hf : RtcmFrame s.cfg fr)
    (hp : s.phase = .sync) (h0 : s.cnt = 0) :
    ∃ t, exec (.push (fr.getD 0 0)) s = .next t ∧ RtcmReceiving fr s 1 t := by
  refine ⟨_, push_in_sync _ hc (by rw [hproto]; rfl) hp, RtcmReceiving.reported ?_⟩
  have hcnt : (clearPushFlags s).cnt = 0 := h0
  have hmatch : syncMatch [0xD3] (fr.getD 0 0) (clearPushFlags s) = takeByte (fr.getD 0 0) (clearPushFlags s) := by
    rw [syncMatch, hcnt, hf.sync, if_pos (by rfl)]
  have hone : (takeByte (fr.getD 0 0) (clearPushFlags s)).cnt.toNat = 1 := cnt_succ (by rw [hcnt]; rfl) (by decide)
  simp only [syncSearch, syncBytes, hmatch]
  rw [if_pos (by exact hone)]
  refine ⟨rfl, rfl, by simp, hone, ?_, fun h => by omega⟩
  rw [takeByte_buf, hcnt]
  exact HoldsPrefix.store (n := 0) nofun

/-- A valid frame pushed from `SYNC` is received. -/
theorem pushn_rtcm_frame (hc : cfgWf s.cfg = true) (hproto : s.cfg.proto = .rtcm3) (hf : RtcmFrame s.cfg fr)
    (hp : s.phase = .sync) (h0 : s.cnt = 0) : ∃ t, pushn fr s = .next ((), t) ∧ RtcmReceived fr s t := by
  have hlen : 1 < fr.length := by have := hf.declared; omega
  obtain ⟨t, hpush, ht⟩ := push_rtcm_sync hc hproto hf hp h0
  have hcons : fr = fr.getD 0 0 :: fr.drop 1 := by
    rw [List.getD_eq_getElem _ _ (by omega), ← List.drop_eq_getElem_cons (by omega), List.drop_zero]
  rw [hcons, pushn_cons _ hpush, ← hcons]
  exact ht.pushn_rest hc hproto hf 1 t hlen

end Reception

/-! ### The frame of its parts -/

/-- The three bytes of a 24-bit word, most significant first. -/
theorem toNat_eq_bytes (x : BitVec 24) :
    x.toNat = (x.extractLsb' 16 8).toNat * 65536 + (x.extractLsb' 8 8).toNat * 256 + (x.extractLsb' 0 8).toNat := by
  simp only [BitVec.extractLsb'_toNat, Nat.shiftRight_eq_div_pow]
  omega

/-- The bytes of a frame: sync, header, payload, CRC (R53). -/
def rtcmBytes (h1 h2 : Byte) (payload : List Byte) (crc : BitVec 24) : List Byte :=
  0xD3 :: h1 :: h2 :: payload ++ [crc.extractLsb' 16 8, crc.extractLsb' 8 8, crc.extractLsb' 0 8]

section Parts
variable (h1 h2 : Byte) (payload : List Byte) (crc : BitVec 24)

theorem rtcmBytes_length : (rtcmBytes h1 h2 payload crc).length = payload.length + 6 := by
  simp [rtcmBytes]

theorem rtcmBytes_take :
    (rtcmBytes h1 h2 payload crc).take (payload.length + 3) = 0xD3 :: h1 :: h2 :: payload :=
  List.take_left' rfl

theorem rtcmBytes_payload {i : Nat} (hi : i < payload.length) :
    (rtcmBytes h1 h2 payload crc).getD (i + 3) 0 = payload.getD i 0 :=
  List.getD_append payload _ 0 i hi

theorem rtcmBytes_crc (i : Nat) : (rtcmBytes h1 h2 payload crc).getD (payload.length + 3 + i) 0 =
    [crc.extractLsb' 16 8, crc.extractLsb' 8 8, crc.extractLsb' 0 8].getD i 0 := by
  have h := List.getD_append_right (0xD3 :: h1 :: h2 :: payload)
    [crc.extractLsb' 16 8, crc.extractLsb' 8 8, crc.extractLsb' 0 8] 0 (payload.length + 3 + i)
    (by simp only [List.length_cons]; omega)
  rwa [show payload.length + 3 + i - (0xD3 :: h1 :: h2 :: payload : List Byte).length = i by
    simp only [List.length_cons]; omega] at h

/-- A header, a payload of the length it declares and the CRC over both make a valid frame (R53). -/
theorem rtcmFrame_of_parts {c : Cfg} (hlen : payload.length = h1.toNat % 4 * 256 + h2.toNat)
    (hfit : payload.length + 6 ≤ bufCapacity c) (hcrc : crc = crc24q c (0xD3 :: h1 :: h2 :: payload)) :
    RtcmFrame c (rtcmBytes h1 h2 payload crc) := by
  have hn := rtcmBytes_length h1 h2 payload crc
  refine ⟨rfl, by rw [hn, hlen]; rfl, by rwa [hn], ?_⟩
  rw [hn, show payload.length + 6 - 3 = payload.length + 3 + 0 by omega,
    show payload.length + 6 - 2 = payload.length + 3 + 1 by omega,
    show payload.length + 6 - 1 = payload.length + 3 + 2 by omega, rtcmBytes_crc, rtcmBytes_crc, rtcmBytes_crc,
    Nat.add_zero, rtcmBytes_take, ← hcrc]
  exact toNat_eq_bytes crc

end Parts

/-- Settles O38: the frame of the statement is an `RtcmFrame`, and such a frame is received byte by byte. -/
theorem anyValidRtcmFrameIsReceived : Obligations.AnyValidRtcmFrameIsReceived := by
  intro s h1 h2 payload crc hc hproto hp h0 hlen hfit hcrc
  have hn := rtcmBytes_length h1 h2 payload crc
  obtain ⟨t, hpush, hev, hph, hcnt, hfv, hdone, hfrLen⟩ :=
    pushn_rtcm_frame hc hproto (rtcmFrame_of_parts h1 h2 payload crc hlen hfit hcrc) hp h0
  rw [hn, Nat.add_sub_cancel] at hev
  refine ⟨_, t, hpush, hev, hph, hcnt, hfv, hdone, hfrLen.trans hn, fun h2le => ?_⟩
  rw [BitVec.toNat_ofNat, Nat.mod_eq_of_lt ((rtcmId_lt _).trans (by decide)), rtcmId,
    ← rtcmBytes_payload h1 h2 payload crc (i := 0) (by omega),
    ← rtcmBytes_payload h1 h2 payload crc (i := 1) (by omega)]

end Sys2Proof.Machine
end

section
/-! Proofs for 30_encoding.md: the encoder against the decoder (R70 to R77), what is reserved and what is refused
(R78, R79), and the wide reads made of two commands (R82). -/

namespace Sys2Proof.Machine

/-! ### A packet put together from its fields, read back part by part (R70, R81) -/

/-- Each part of a word put together from three is read back at its own position. -/
theorem append_parts {n m k : Nat} (x : BitVec n) (y : BitVec m) (z : BitVec k) :
    (x ++ y ++ z).extractLsb' (k + m) n = x ∧ (x ++ y ++ z).extractLsb' k m = y ∧
      (x ++ y ++ z).extractLsb' 0 k = z := by
  refine ⟨?_, ?_, BitVec.extractLsb'_append_eq_right⟩
  · rw [BitVec.extractLsb'_append_eq_of_le (Nat.le_add_right k m), Nat.add_sub_cancel_left,
      BitVec.extractLsb'_append_eq_left]
  · rw [BitVec.extractLsb'_append_eq_of_le le_rfl, Nat.sub_self, BitVec.extractLsb'_append_eq_right]

@[simp] theorem packetOf_op (op w : BitVec 8) (a : BitVec 16) (x y : Word) : (packetOf op w a x y).op = op := by
  obtain ⟨hop, -, -⟩ := append_parts op w a
  exact hop

@[simp] theorem packetOf_w (op w : BitVec 8) (a : BitVec 16) (x y : Word) : (packetOf op w a x y).w = w := by
  obtain ⟨-, hw, -⟩ := append_parts op w a
  exact hw

@[simp] theorem packetOf_a (op w : BitVec 8) (a : BitVec 16) (x y : Word) : (packetOf op w a x y).a = a := by
  obtain ⟨-, -, ha⟩ := append_parts op w a
  exact ha

@[simp] theorem packetOf_arg0 (op w : BitVec 8) (a : BitVec 16) (x y : Word) : (packetOf op w a x y).arg0 = x := rfl

@[simp] theorem packetOf_arg1 (op w : BitVec 8) (a : BitVec 16) (x y : Word) : (packetOf op w a x y).arg1 = y := rfl

/-- The low bits of a part hold the operand that was zero-extended to fill it (R73). -/
theorem lowBits_setWidth {n m : Nat} (x : BitVec n) (h : n ≤ m) : (x.setWidth m).extractLsb' 0 n = x := by
  rw [BitVec.extractLsb'_setWidth_of_le (by omega), BitVec.extractLsb'_eq_self]

/-- Settles O1: by the command. The decoder takes the branch of the `OP` and algorithm code the encoder wrote, and
each part its format reads is the operand that was put there. -/
theorem decodeOfEncodeIsTheCommand : Obligations.DecodeOfEncodeIsTheCommand := by
  intro i
  cases i with
  | msmdec sys zero x p l =>
    -- the three parts of `W` (R76); `append_parts` no longer matches once `simp` has added up the widths
    simp only [encode, decode, packetOf_op, packetOf_w, packetOf_arg0, packetOf_arg1, BitVec.ofNat_eq_ofNat,
      Except.ok.injEq, Instr.msmdec.injEq, and_true]
    exact append_parts sys zero x
  | _ => simp [encode, decode, decodeCkc, decodeCkv, lowBits_setWidth]

/-- Settles O2. -/
theorem writtenOutPacketsDecode : Obligations.WrittenOutPacketsDecode := by
  unfold Obligations.WrittenOutPacketsDecode
  decide

/-! ### Reserved packets (R74, R79) -/

/-- An algorithm code other than the five of R75. -/
theorem four_lt_of_unlisted {w : BitVec 8} (h0 : w ≠ 0#8) (h1 : w ≠ 1#8) (h2 : w ≠ 2#8) (h3 : w ≠ 3#8)
    (h4 : w ≠ 4#8) :
    4 < w.toNat := by
  bv_omega

theorem decodeCkc_error_iff (p : Packet) : (∃ e, decodeCkc p = .error e) ↔ 4 < p.w.toNat := by
  unfold decodeCkc
  split
  case h_6 h0 h1 h2 h3 h4 => exact iff_of_true ⟨_, rfl⟩ (four_lt_of_unlisted h0 h1 h2 h3 h4)
  all_goals simp [*]

theorem decodeCkv_error_iff (p : Packet) : (∃ e, decodeCkv p = .error e) ↔ 4 < p.w.toNat := by
  unfold decodeCkv
  split
  case h_6 h0 h1 h2 h3 h4 => exact iff_of_true ⟨_, rfl⟩ (four_lt_of_unlisted h0 h1 h2 h3 h4)
  all_goals simp [*]

/-- Settles O3: along the branches of the opcode map. A listed `OP` other than `CKC` and `CKV` gives a command. -/
theorem reservedPacketsExactly : Obligations.ReservedPacketsExactly := by
  intro p
  unfold decode
  split
  case h_13 hop => simp [hop, decodeCkc_error_iff]
  case h_14 hop => simp [hop, decodeCkv_error_iff]
  case h_19 => exact iff_of_true ⟨_, rfl⟩ (.inl (by simp_all))
  all_goals simp [*]

/-! ### Parts no format reads (R77) -/

/-- A `CKC` packet's algorithm code and the parts of its row are read, `A` not for `CKC.HAM`. -/
theorem decodeCkc_congr {p q : Packet} (hop : p.op = q.op)
    (hread : (p.w = q.w ∧ p.w.toNat < 4 ∧ p.a = q.a ∧ p.arg0 = q.arg0) ∨ (p.w = 4 ∧ q.w = 4 ∧ p.arg0 = q.arg0)) :
    decodeCkc p = decodeCkc q := by
  obtain ⟨hw, -, ha, h0⟩ | ⟨hp, hq, h0⟩ := hread
  · simp [decodeCkc, hop, hw, ha, h0]
  · simp [decodeCkc, hp, hq, h0]

/-- Of a `CKV` packet, the algorithm code, the parts of its row and the compared bits of `ARG1` are read (R73). -/
theorem decodeCkv_congr {p q : Packet}
    (hread :
     (p.w = 0 ∧ q.w = 0 ∧ p.a = q.a ∧ p.arg0 = q.arg0 ∧ p.arg1.extractLsb' 0 24 = q.arg1.extractLsb' 0 24) ∨
     (p.w = 1 ∧ q.w = 1 ∧ p.a = q.a ∧ p.arg0 = q.arg0 ∧ p.arg1 = q.arg1) ∨
     ((p.w = 2 ∨ p.w = 3) ∧ p.w = q.w ∧ p.a = q.a ∧ p.arg0 = q.arg0 ∧
       p.arg1.extractLsb' 0 16 = q.arg1.extractLsb' 0 16) ∨
     (p.w = 4 ∧ q.w = 4 ∧ p.arg0 = q.arg0 ∧ p.arg1.extractLsb' 0 6 = q.arg1.extractLsb' 0 6)) :
    decodeCkv p = decodeCkv q := by
  obtain ⟨hp, hq, ha, h0, he⟩ | ⟨hp, hq, ha, h0, he⟩ | ⟨hp | hp, hq, ha, h0, he⟩ | ⟨hp, hq, h0, he⟩ := hread
  · simp [decodeCkv, hp, hq, ha, h0, he]
  · simp [decodeCkv, hp, hq, ha, h0, he]
  · simp [decodeCkv, hp, ← hq, ha, h0, he]
  · simp [decodeCkv, hp, ← hq, ha, h0, he]
  · simp [decodeCkv, hp, hq, h0, he]

/-- Running a packet sees no more of it than its decoding. -/
theorem runPacket_congr {p q : Packet} (h : decode p = decode q) (s : State) : runPacket p s = runPacket q s := by
  rw [runPacket, runPacket, h]

/-- Settles O4: along the branches of the opcode map; in `CKC` and `CKV` the algorithm code selects the format. -/
theorem unreadPacketPartsIgnored : Obligations.UnreadPacketPartsIgnored := by
  intro p q hop hread
  suffices h : decode p = decode q from ⟨h, runPacket_congr h⟩
  unfold decode
  rw [← hop]
  split
  case h_13 hp => exact decodeCkc_congr hop (by simpa [hp] using hread)
  case h_14 hp => exact decodeCkv_congr (by simpa [hp] using hread)
  -- elsewhere `OP` alone selects the format; without `hop`, `simp_all` reads `hread` at the branch's own `OP`
  all_goals
    clear hop
    simp_all

/-! ### Operands out of range (R73, R78, R79) -/

/-- A register number above `0x0F` names none of the sixteen registers (R242). -/
theorem regValue_reserved (s : State) {reg : BitVec 8} (h : regInRange reg = false) : regValue s reg = none := by
  unfold regValue
  split
  case h_17 => rfl
  all_goals simp [regInRange] at h

theorem widthInRange_eq_false {w : BitVec 8} (h : widthInRange w = false) : w.toNat = 0 ∨ 32 < w.toNat := by
  have hw := mt (widthInRange_iff w).2 (ne_true_of_eq_false h)
  omega

/-- A `sys` code above 5 names no system (R76). -/
theorem gnssOf_reserved {sys : BitVec 4} (h : 5 < sys.toNat) : gnssOf sys = none := by
  unfold gnssOf
  split
  case h_7 => rfl
  all_goals simp at h

theorem execMsmdec_mode_refused {sys : BitVec 4} {zero : BitVec 3} (x : BitVec 1) (p l : Word) (s : State)
    (h : msmModeInRange sys zero = false) : execMsmdec sys zero x p l s = refuse s := by
  unfold execMsmdec
  split
  · rfl
  · rename_i g hg
    refine if_neg fun ⟨hz, _⟩ => ?_
    have hsys : 5 < sys.toNat := by simpa [msmModeInRange, hz] using h
    simp [gnssOf_reserved hsys] at hg

theorem msmHeaderElem_unlisted (h : MsmHeader) {sel : BitVec 8} (hsel : selIsHeader sel = false) :
    msmHeaderElem h sel = none := by
  unfold msmHeaderElem
  split
  case h_21 => rfl
  all_goals simp [selIsHeader] at hsel

/-- A selector in none of the three ranges of R231 gives no element, whatever the counts. -/
theorem msmElem_unlisted (f : MsmFile) {sel : BitVec 8} (idx : BitVec 16) (h : selInRange sel = false) :
    msmElem f sel idx = none := by
  simp only [selInRange, Bool.or_eq_false_iff] at h
  obtain ⟨⟨hhdr, hsat⟩, hcell⟩ := h
  simp [msmElem, hsat, hcell, msmHeaderElem_unlisted f.hdr hhdr]

theorem execMsmrd_unlisted {sel : BitVec 8} (idx : BitVec 16) (s : State) (h : selInRange sel = false) :
    execMsmrd sel idx s = refuse s := by
  simp [execMsmrd, msmElem_unlisted s.msm idx h]

/-- Settles O6: each range check of `wf` fails in the shared form or in the table that the command goes through. -/
theorem illFormedOperandsAreRefused : Obligations.IllFormedOperandsAreRefused := by
  intro i s h
  rw [← exec_refuse]
  cases i with
  | getr reg => simp only [exec, execGetr, regValue_reserved s h]
  | rdu w => exact bitAccess_refused _ s (widthInRange_eq_false h)
  | rds w => exact bitAccess_refused _ s (widthInRange_eq_false h)
  | wru w v => exact bitAccess_refused _ s (widthInRange_eq_false h)
  | wrs w v => exact bitAccess_refused _ s (widthInRange_eq_false h)
  | msmdec sys zero x p l => exact execMsmdec_mode_refused x p l s h
  | msmrd sel idx => exact execMsmrd_unlisted idx s h
  | _ => cases h

/-! ### Wide reads (R82) -/

/-- The split law of R103. -/
theorem getU_add (m : Memory) (p a b : Nat) : getU m p (a + b) = getU m p a * 2 ^ b + getU m (p + a) b := by
  induction b with
  | zero => simp [getU]
  | succ b ih => rw [← Nat.add_assoc, getU, ih, getU, pow_succ, Nat.add_assoc p]; ring

/-- The split law of R103 for signed fields: the first part carries the sign. -/
theorem getS_add (m : Memory) (p a b : Nat) : getS m p (a + b) = getS m p a * 2 ^ b + (getU m (p + a) b : Int) := by
  unfold getS
  rw [getU_add]
  split
  · push_cast [pow_add]; ring
  · push_cast; rfl

theorem call_next {i : Instr} {s t : State} (h : exec i s = .next t) : call i s = .next (t.res0, t) := by
  simp [call, h]

/-- Two commands that answer: the value is made of both results (R82). -/
theorem callTwo_next {α : Type} {i j : Instr} {s t u : State} (f : Word → Word → α) (hi : exec i s = .next t)
    (hj : exec j t = .next u) : callTwo i j f s = .next (f t.res0 u.res0, u) := by
  simp [callTwo, call_next hi, call_next hj, andThen, give]

/-- A read that left its result and moved the cursor, followed by `RDU 32`. -/
theorem callTwo_rdu32 {α : Type} {i : Instr} {s : State} {hi pos : Word} (f : Word → Word → α)
    (hread : exec i s = .next { s with res0 := hi, bitoff := pos }) (hin : pos.toNat + 32 ≤ 8 * bufCapacity s.cfg) :
    ∃ lo t, callTwo i (.rdu 32) f s = .next (f hi lo, t) ∧ lo.toNat = getU s.buf pos.toNat 32 ∧
      t.buf = s.buf ∧ t.bitoff.toNat = pos.toNat + 32 := by
  obtain ⟨-, -, hok⟩ := rduReadsTheUnsignedField { s with res0 := hi, bitoff := pos } 32
  obtain ⟨lo, b, hexec, hlo, hb⟩ := hok (by decide) (by decide) hin
  exact ⟨lo, _, callTwo_next f hread hexec, hlo, rfl, hb⟩

/-- The first part of a wide field holds the bits above the low 32 (R82). -/
theorem wideHigh_toNat {n : Nat} (h : n ≤ 32) : (wideHigh (n + 32)).toNat = n := by
  simp [wideHigh]; omega

/-- Settles O20: the two fields read join to the whole field by the split law. -/
theorem wideReadsGiveTheWholeField : Obligations.WideReadsGiveTheWholeField := by
  intro s w h33 h64 hin
  obtain ⟨n, rfl⟩ : ∃ n, w = n + 32 := ⟨w - 32, by omega⟩
  have hn := wideHigh_toNat (n := n) (by omega)
  obtain ⟨-, -, hrdu⟩ := rduReadsTheUnsignedField s (wideHigh (n + 32))
  obtain ⟨-, -, hrds⟩ := rdsReadsTheSignedField s (wideHigh (n + 32))
  rw [hn] at hrdu hrds
  constructor
  · obtain ⟨hi, pos, hexec, hhi, hpos⟩ := hrdu (by omega) (by omega) (by omega)
    obtain ⟨lo, t, hcall, hlo, hbuf, hoff⟩ :=
      callTwo_rdu32 (fun hi lo => hi.toNat * 2 ^ 32 + lo.toNat) hexec (by omega)
    refine ⟨t, ?_, hbuf, by omega⟩
    rw [getU_add, ← hhi, ← hpos, ← hlo]
    exact hcall
  · obtain ⟨hi, pos, hexec, hhi, hpos⟩ := hrds (by omega) (by omega) (by omega)
    obtain ⟨lo, t, hcall, hlo, hbuf, hoff⟩ :=
      callTwo_rdu32 (fun hi lo => hi.toInt * 2 ^ 32 + (lo.toNat : Int)) hexec (by omega)
    refine ⟨t, ?_, hbuf, by omega⟩
    rw [getS_add, ← hhi, ← hpos, ← hlo]
    exact hcall

end Sys2Proof.Machine
end

section
/-! Proofs for 40_bitfield.md: signed fields in two's complement (R101), field writes and the five laws (R102, R103),
and the commands `WRS`, `SEEK`, `TELL`, `BUFRD`, `BUFWR` (R108 to R112). -/

namespace Sys2Proof.Machine

/-! ### Signed fields (R101) -/

theorem getS_of_first_clear {m : Memory} {p : Nat} (w : Nat) (h : bitAt m p = false) :
    getS m p w = (getU m p w : Int) := by
  simp [getS, h]

theorem getS_of_first_set {m : Memory} {p : Nat} (w : Nat) (h : bitAt m p = true) :
    getS m p w = (getU m p w : Int) - 2 ^ w := by
  simp [getS, h]

theorem getS_range_of_pos (m : Memory) (p : Nat) {w : Nat} (h : 1 ≤ w) :
    -2 ^ (w - 1) ≤ getS m p w ∧ getS m p w < 2 ^ (w - 1) := by
  obtain ⟨n, rfl⟩ := Nat.exists_eq_add_of_le' h
  exact getS_range m p n

theorem getS_one (m : Memory) (p : Nat) : getS m p 1 = 0 ∨ getS m p 1 = -1 := by
  obtain ⟨hlo, hhi⟩ := getS_range m p 0
  rw [zero_add, pow_zero] at hlo hhi
  omega

/-- Settles O11: the sign by definition, the range by `getS_range`. -/
theorem signedFieldIsTwosComplement : Obligations.SignedFieldIsTwosComplement := by
  intro m p w hw
  obtain ⟨hlo, hhi⟩ := getS_range_of_pos m p hw
  exact ⟨getS_of_first_clear w, getS_of_first_set w, hlo, hhi, getS_one m p⟩

/-! ### Field writes (R102) -/

theorem getU_putU_of_lt (m : Memory) (p : Nat) {w v : Nat} (h : v < 2 ^ w) : getU (putU m p w v) p w = v := by
  rw [getU_putU_same, Nat.mod_eq_of_lt h]

/-- Settles O12: the value, its bits and the frame of `putU`. -/
theorem writeChangesOnlyItsField : Obligations.WriteChangesOnlyItsField := fun m p w v hv =>
  ⟨getU_putU_of_lt m p hv, fun i hi => bitAt_putU_inside m p w v i hi, fun q hq => bitAt_putU_outside m p w v q hq⟩

/-! ### The signed value as a balanced remainder -/

/-- The balanced remainder modulo `2 ^ w` fixes exactly the numbers of `w`-bit two's complement. -/
theorem bmod_two_pow_eq_self_iff (x : Int) {w : Nat} (h : 1 ≤ w) :
    x.bmod (2 ^ w) = x ↔ -2 ^ (w - 1) ≤ x ∧ x < 2 ^ (w - 1) := by
  obtain ⟨n, rfl⟩ := Nat.exists_eq_add_of_le' h
  rw [Int.bmod_eq_iff (by positivity), Nat.add_sub_cancel, sub_self]
  push_cast [pow_succ]
  simp only [dvd_zero, and_true]
  omega

/-- The signed and the unsigned reading of a field differ by a multiple of `2 ^ w`. -/
theorem getS_bmod (m : Memory) (p w : Nat) : (getS m p w).bmod (2 ^ w) = (getU m p w : Int).bmod (2 ^ w) := by
  cases hb : bitAt m p with
  | false => rw [getS_of_first_clear w hb]
  | true =>
    rw [getS_of_first_set w hb]
    exact_mod_cast Int.sub_bmod_right (getU m p w : Int) (2 ^ w)

/-- `getS` is the two's-complement number with the bits of `getU` (R101). -/
theorem getS_eq_bmod (m : Memory) (p : Nat) {w : Nat} (h : 1 ≤ w) :
    getS m p w = (getU m p w : Int).bmod (2 ^ w) := by
  rw [← getS_bmod]
  exact ((bmod_two_pow_eq_self_iff _ h).2 (getS_range_of_pos m p h)).symm

/-! ### The laws of R103 -/

theorem getU_putU_disjoint (m : Memory) {p w p' w' : Nat} (v : Nat) (h : p' + w' ≤ p ∨ p + w ≤ p') :
    getU (putU m p w v) p' w' = getU m p' w' :=
  getU_congr fun i hi => bitAt_putU_outside m p w v (p' + i) (by omega)

theorem getS_putU_of_lt (m : Memory) (p : Nat) {w v : Nat} (h : 1 ≤ w) (hv : v < 2 ^ w) :
    getS (putU m p w v) p w = if v < 2 ^ (w - 1) then (v : Int) else (v : Int) - 2 ^ w := by
  obtain ⟨n, rfl⟩ := Nat.exists_eq_add_of_le' h
  have hmod : (v : Int) % (2 ^ (n + 1) : Nat) = v := by exact_mod_cast Nat.mod_eq_of_lt hv
  have hhalf : (v : Int) < ((2 ^ (n + 1) : Nat) + 1) / 2 ↔ v < 2 ^ n := by rw [pow_succ]; omega
  rw [getS_eq_bmod _ _ h, getU_putU_of_lt m p hv, Int.bmod_def, hmod, Nat.add_sub_cancel]
  simp only [hhalf]
  push_cast
  rfl

/-- The first `w` bits of a byte are its value without the `8 - w` low bits (R10). -/
theorem getU_byte_prefix (m : Memory) (i : Nat) {w : Nat} (h : w ≤ 8) :
    getU m (8 * i) w = (Memory.byteAt m i).toNat / 2 ^ (8 - w) := by
  induction w with
  | zero => simp [getU, Nat.div_eq_of_lt (Memory.byteAt m i).isLt]
  | succ w ih =>
    have hbyte : (8 * i + w) / 8 = i := by omega
    have hbit : 7 - (8 * i + w) % 8 = 7 - w := by omega
    have hhigh : (Memory.byteAt m i).toNat / 2 ^ (8 - w) = (Memory.byteAt m i).toNat / 2 ^ (7 - w) / 2 := by
      rw [Nat.div_div_eq_div_mul, ← pow_succ, show 7 - w + 1 = 8 - w by omega]
    have hlow : (bitAt m (8 * i + w)).toNat = (Memory.byteAt m i).toNat / 2 ^ (7 - w) % 2 := by
      rw [bitAt, hbyte, hbit, BitVec.getLsbD, Nat.toNat_testBit]
    rw [getU, ih (by omega), hhigh, hlow, show 8 - (w + 1) = 7 - w by omega]
    omega

theorem getU_byte (m : Memory) (i : Nat) : getU m (8 * i) 8 = (Memory.byteAt m i).toNat := by
  simp [getU_byte_prefix m i le_rfl]

theorem getS_emod (m : Memory) (p : Nat) {w : Nat} (h : 1 ≤ w) : getS m p w % 2 ^ w = (getU m p w : Int) := by
  have hmod : getS m p w % (2 ^ w : Nat) = (getU m p w : Int) := by
    rw [getS_eq_bmod m p h, Int.bmod_emod]
    exact_mod_cast Nat.mod_eq_of_lt (getU_lt m p w)
  exact_mod_cast hmod

/-- Settles O13: each law by its lemma. -/
theorem bitFieldLaws : Obligations.BitFieldLaws := fun m p =>
  ⟨fun _ _ hw hv => ⟨getU_putU_of_lt m p hv, getS_putU_of_lt m p hw hv⟩,
    fun _ v _ _ h => getU_putU_disjoint m v h,
    fun a b _ _ => ⟨getU_add m p a b, getS_add m p a b⟩,
    getU_byte m,
    fun _ hw => getS_emod m p hw⟩

/-! ### `WRS` (R108) -/

theorem exec_wrs_eq_wru (w : BitVec 8) (v : Word) (s : State) : exec (.wrs w v) s = exec (.wru w v) s := rfl

/-- A field that holds the low `w` bits of a word reads as the word's balanced remainder. -/
theorem getS_of_low_bits {m : Memory} {p w : Nat} {v : Word} (h1 : 1 ≤ w) (h32 : w ≤ 32)
    (hread : getU m p w = v.toNat % 2 ^ w) : getS m p w = v.toInt.bmod (2 ^ w) := by
  rw [getS_eq_bmod m p h1, hread, BitVec.toInt_eq_toNat_bmod, Int.bmod_bmod_of_dvd (pow_dvd_pow 2 h32), Int.natCast_mod,
    Int.emod_bmod]

/-- Settles O17: the write is that of O16; the signed reading is the operand's balanced remainder. -/
theorem wrsWritesTheField : Obligations.WrsWritesTheField := by
  refine fun s w v => ⟨exec_wrs_eq_wru w v s, fun h1 h32 hin => ?_⟩
  obtain ⟨-, -, hwrite⟩ := wruWritesTheField s w v
  obtain ⟨m, b, hexec, hread, hbits, hbytes, hpos⟩ := hwrite h1 h32 hin
  refine ⟨m, b, (exec_wrs_eq_wru w v s).trans hexec, hread, hbits, hbytes, hpos, ?_⟩
  rw [getS_of_low_bits h1 h32 hread]
  exact bmod_two_pow_eq_self_iff v.toInt h1

/-! ### The cursor and the bytes (R109 to R112) -/

/-- Settles O18: both next states are the commands' definitions. -/
theorem seekAndTellUseTheCursor : Obligations.SeekAndTellUseTheCursor := fun _ => ⟨fun _ => rfl, rfl⟩

theorem indexInBuf_eq_true {s : State} {idx : BitVec 16} (hin : idx.toNat < bufCapacity s.cfg) :
    indexInBuf s idx = true := by
  simpa [indexInBuf] using hin

theorem exec_bufrd_inside {s : State} {idx : BitVec 16} (hin : idx.toNat < bufCapacity s.cfg) :
    exec (.bufrd idx) s = .next { s with res0 := (Memory.byteAt s.buf idx.toNat).setWidth 32 } :=
  if_pos (indexInBuf_eq_true hin)

theorem exec_bufwr_inside {s : State} {idx : BitVec 16} (b : Byte) (hin : idx.toNat < bufCapacity s.cfg) :
    exec (.bufwr idx b) s = .next { s with buf := Memory.set s.buf idx.toNat b, fvalid := false } :=
  if_pos (indexInBuf_eq_true hin)

/-- Settles O19: the refusal is that of O7; inside, the stored byte and its frame are those of `Memory.set`. -/
theorem byteReadAndByteWrite : Obligations.ByteReadAndByteWrite := by
  refine fun s idx b => ⟨fun hout => ?_, fun hin => ⟨exec_bufrd_inside hin, _, exec_bufwr_inside b hin,
    byteAt_set_same .., fun _ ha => byteAt_set_other _ _ ha⟩⟩
  obtain ⟨hindex, -⟩ := accessOutsideTheBuffer s
  obtain ⟨hbufrd, hbufwr⟩ := hindex idx hout
  exact ⟨hbufrd, hbufwr b⟩

end Sys2Proof.Machine
end

section
/-! Proofs for 41_checksum.md: what the five functions compute (R120 to R125, R138), the zero residue of a span followed
by its CRC (R139), the legacy word a host builds (R140), and the commands (R126 to R136). -/

namespace Sys2Proof.Machine

/-! ### Sums over a span -/

/-- A sum over the bytes of a span and one more byte. -/
theorem sum_range_append_singleton (f : Nat → Byte → Nat) (bs : List Byte) (b : Byte) :
    ∑ i ∈ Finset.range (bs ++ [b]).length, f i ((bs ++ [b]).getD i 0) =
      ∑ i ∈ Finset.range bs.length, f i (bs.getD i 0) + f bs.length b := by
  have hold : ∀ i ∈ Finset.range bs.length, f i ((bs ++ [b]).getD i 0) = f i (bs.getD i 0) := fun i hi => by
    rw [List.getD_append _ _ _ _ (Finset.mem_range.1 hi)]
  rw [List.length_append, List.length_singleton, Finset.sum_range_succ, Finset.sum_congr rfl hold]
  simp

/-! ### The Fletcher sums (R123) -/

/-- The running pair of R123: the sum of the bytes, and the sum in which each byte counts once for itself and once for
every byte after it, both modulo 256. -/
theorem foldl_fletcherStep_toNat (bs : List Byte) :
    (bs.foldl fletcherStep (0, 0)).1.toNat = (∑ i ∈ Finset.range bs.length, (bs.getD i 0).toNat) % 256 ∧
      (bs.foldl fletcherStep (0, 0)).2.toNat =
        (∑ i ∈ Finset.range bs.length, (bs.length - i) * (bs.getD i 0).toNat) % 256 := by
  induction bs using List.reverseRecOn with
  | nil => exact ⟨rfl, rfl⟩
  | append_singleton bs b ih =>
    obtain ⟨ha, hb⟩ := ih
    -- one more byte raises the weight of each byte before it by one
    have hweight : ∑ i ∈ Finset.range bs.length, (bs.length + 1 - i) * (bs.getD i 0).toNat =
        ∑ i ∈ Finset.range bs.length, (bs.length - i) * (bs.getD i 0).toNat +
          ∑ i ∈ Finset.range bs.length, (bs.getD i 0).toNat := by
      rw [← Finset.sum_add_distrib]
      refine Finset.sum_congr rfl fun i hi => ?_
      rw [Nat.succ_sub (Finset.mem_range.1 hi).le, Nat.succ_mul]
    rw [List.foldl_append, sum_range_append_singleton fun _ x => x.toNat,
      sum_range_append_singleton fun i x => ((bs ++ [b]).length - i) * x.toNat, List.length_append,
      List.length_singleton, hweight, Nat.add_sub_cancel_left, one_mul]
    simp only [List.foldl_cons, List.foldl_nil, fletcherStep, BitVec.toNat_add]
    omega

theorem fletcher_toNat (bs : List Byte) : (fletcher bs).toNat =
    (∑ i ∈ Finset.range bs.length, (bs.getD i 0).toNat) % 256 * 256 +
      (∑ i ∈ Finset.range bs.length, (bs.length - i) * (bs.getD i 0).toNat) % 256 := by
  obtain ⟨ha, hb⟩ := foldl_fletcherStep_toNat bs
  rw [fletcher, BitVec.toNat_append, ← Nat.shiftLeft_add_eq_or_of_lt (BitVec.isLt _), Nat.shiftLeft_eq, ha, hb]

/-! ### The exclusive-or and its two characters (R124) -/

theorem xor8_append_singleton (bs : List Byte) (b : Byte) : xor8 (bs ++ [b]) = xor8 bs ^^^ b := by
  simp [xor8]

theorem toNat_xor_bool (a b : Bool) : (a ^^ b).toNat = (a.toNat + b.toNat) % 2 := by
  cases a <;> cases b <;> rfl

theorem xor8_getLsbD_toNat (bs : List Byte) (j : Nat) : ((xor8 bs).getLsbD j).toNat =
    (∑ i ∈ Finset.range bs.length, ((bs.getD i 0).getLsbD j).toNat) % 2 := by
  induction bs using List.reverseRecOn with
  | nil => simp [xor8]
  | append_singleton bs b ih =>
    rw [xor8_append_singleton, BitVec.getLsbD_xor, toNat_xor_bool, ih,
      sum_range_append_singleton fun _ x => (x.getLsbD j).toNat]
    omega

/-- The characters 0..9 A..F (R124). -/
def hexDigits : List Byte :=
  [0x30, 0x31, 0x32, 0x33, 0x34, 0x35, 0x36, 0x37, 0x38, 0x39, 0x41, 0x42, 0x43, 0x44, 0x45, 0x46]

theorem hexDigits_getElem (n : BitVec 4) : hexDigits[n.toNat]? = some (hexd n) := by
  revert n; decide

/-- The upper half of the exclusive-or is rendered first. -/
theorem xorhex_eq_hexDigits (bs : List Byte) : ∃ hi lo : Byte, xorhex bs = hi ++ lo ∧
    hexDigits[(xor8 bs).toNat / 16]? = some hi ∧ hexDigits[(xor8 bs).toNat % 16]? = some lo := by
  have hhigh : ((xor8 bs).extractLsb' 4 4).toNat = (xor8 bs).toNat / 16 := by
    rw [BitVec.extractLsb'_toNat, Nat.shiftRight_eq_div_pow]
    omega
  have hlow : ((xor8 bs).extractLsb' 0 4).toNat = (xor8 bs).toNat % 16 := BitVec.extractLsb'_toNat ..
  exact ⟨_, _, rfl, hhigh ▸ hexDigits_getElem _, hlow ▸ hexDigits_getElem _⟩

/-! ### One byte of a CRC as eight steps on numbers (R121, R122) -/

/-- One bit step of R121 on a register below 2^24. -/
def crc24BitNat (poly r : Nat) : Nat := if 2 * r < 2 ^ 24 then 2 * r else (2 * r) ^^^ poly

/-- One bit step of R122. -/
def crc32BitNat (poly r : Nat) : Nat := if r % 2 = 1 then (r / 2) ^^^ poly else r / 2

theorem crc24Bit_eq_ite (poly r : BitVec 25) :
    crc24Bit poly r = if (r <<< 1).msb then r <<< 1 ^^^ poly else r <<< 1 := by
  rw [BitVec.msb_eq_getLsbD_last]
  rfl

/-- With a polynomial whose bit 24 is set, the register's bit 24 is clear after every step. -/
theorem crc24Bit_msb {poly : BitVec 25} (hpoly : poly.msb = true) (r : BitVec 25) : (crc24Bit poly r).msb = false := by
  rw [crc24Bit_eq_ite]
  split
  · rw [BitVec.msb_xor, hpoly, ‹(r <<< 1).msb = true›]; rfl
  · exact eq_false_of_ne_true ‹_›

theorem crc24Bit_toNat (poly : BitVec 25) {r : BitVec 25} (hr : r.msb = false) :
    (crc24Bit poly r).toNat = crc24BitNat poly.toNat r.toNat := by
  have hlt := BitVec.toNat_lt_of_msb_false hr
  have hshift : (r <<< 1).toNat = 2 * r.toNat := by rw [BitVec.toNat_shiftLeft, Nat.shiftLeft_eq]; omega
  rw [crc24Bit_eq_ite, crc24BitNat]
  cases hmsb : (r <<< 1).msb with
  | false =>
    have hlow := BitVec.toNat_lt_of_msb_false hmsb
    rw [if_neg Bool.false_ne_true, if_pos (hshift ▸ hlow), hshift]
  | true =>
    have hhigh := BitVec.le_toNat_of_msb_true hmsb
    rw [if_pos rfl, if_neg (hshift ▸ Nat.not_lt.2 hhigh), BitVec.toNat_xor, hshift]

theorem crc24Bit_repeat {poly : BitVec 25} (hpoly : poly.msb = true) {r : BitVec 25} (hr : r.msb = false) (n : Nat) :
    (Nat.repeat (crc24Bit poly) n r).msb = false ∧
      (Nat.repeat (crc24Bit poly) n r).toNat = (crc24BitNat poly.toNat)^[n] r.toNat := by
  induction n with
  | zero => exact ⟨hr, rfl⟩
  | succ n ih =>
    obtain ⟨hmsb, hnat⟩ := ih
    exact ⟨crc24Bit_msb hpoly _, by rw [Nat.repeat, crc24Bit_toNat _ hmsb, hnat, Function.iterate_succ_apply']⟩

theorem crc32Bit_toNat (poly r : Word) : (crc32Bit poly r).toNat = crc32BitNat poly.toNat r.toNat := by
  have hlow : r.getLsbD 0 = true ↔ r.toNat % 2 = 1 := by simp [BitVec.getLsbD, Nat.testBit_zero]
  have hshift : (r >>> 1).toNat = r.toNat / 2 := by simp [Nat.shiftRight_eq_div_pow]
  simp only [crc32Bit, crc32BitNat, hlow]
  split
  · rw [BitVec.toNat_xor, hshift]
  · exact hshift

theorem crc32Bit_repeat_toNat (poly r : Word) (n : Nat) :
    (Nat.repeat (crc32Bit poly) n r).toNat = (crc32BitNat poly.toNat)^[n] r.toNat := by
  induction n with
  | zero => rfl
  | succ n ih => rw [Nat.repeat, crc32Bit_toNat, ih, Function.iterate_succ_apply']

/-! ### One more byte of a span -/

/-- A byte put at bits 23:16 of the 25-bit register leaves bit 24 alone. -/
theorem xor_byte_msb {r : BitVec 25} (hr : r.msb = false) (b : Byte) : (r ^^^ (b.setWidth 25 <<< 16)).msb = false := by
  rw [BitVec.msb_xor, hr, BitVec.msb_eq_getLsbD_last]
  simp

theorem byte_shiftLeft_toNat (b : Byte) : (b.setWidth 25 <<< 16).toNat = b.toNat * 2 ^ 16 := by
  have := b.isLt
  rw [BitVec.toNat_shiftLeft, BitVec.toNat_setWidth, Nat.shiftLeft_eq]
  omega

/-- The register of R121 after a span; `crc24q` is its low 24 bits. -/
def crc24Register (c : Cfg) (bs : List Byte) : BitVec 25 :=
  bs.foldl (crc24Byte c.crc24Poly) (c.crc24Init.setWidth 25)

theorem crc24Register_append_singleton (c : Cfg) (bs : List Byte) (b : Byte) :
    crc24Register c (bs ++ [b]) = crc24Byte c.crc24Poly (crc24Register c bs) b := by
  simp [crc24Register]

theorem crc24Register_msb {c : Cfg} (hpoly : c.crc24Poly.msb = true) (bs : List Byte) :
    (crc24Register c bs).msb = false := by
  induction bs using List.reverseRecOn with
  | nil => simp [crc24Register, BitVec.msb_setWidth]
  | append_singleton bs b ih =>
    rw [crc24Register_append_singleton]
    exact (crc24Bit_repeat hpoly (xor_byte_msb ih b) 8).1

theorem crc24q_toNat {c : Cfg} (hpoly : c.crc24Poly.msb = true) (bs : List Byte) :
    (crc24q c bs).toNat = (crc24Register c bs).toNat := by
  have hlt := BitVec.toNat_lt_of_msb_false (crc24Register_msb hpoly bs)
  exact (BitVec.toNat_setWidth ..).trans (Nat.mod_eq_of_lt hlt)

theorem crc24q_append_toNat {c : Cfg} (hpoly : c.crc24Poly.msb = true) (bs : List Byte) (b : Byte) :
    (crc24q c (bs ++ [b])).toNat =
      (crc24BitNat c.crc24Poly.toNat)^[8] ((crc24q c bs).toNat ^^^ b.toNat * 2 ^ 16) := by
  obtain ⟨-, hbyte⟩ := crc24Bit_repeat hpoly (xor_byte_msb (crc24Register_msb hpoly bs) b) 8
  rw [crc24q_toNat hpoly, crc24q_toNat hpoly, crc24Register_append_singleton, crc24Byte, hbyte, BitVec.toNat_xor,
    byte_shiftLeft_toNat]

/-- `crc32r` without its final exclusive-or is the register of R122. -/
theorem crc32r_append_xorout (c : Cfg) (bs : List Byte) (b : Byte) :
    crc32r c (bs ++ [b]) ^^^ c.crc32Xorout = crc32Byte c.crc32Poly (crc32r c bs ^^^ c.crc32Xorout) b := by
  simp [crc32r]

theorem crc32r_append_toNat (c : Cfg) (bs : List Byte) (b : Byte) :
    (crc32r c (bs ++ [b]) ^^^ c.crc32Xorout).toNat =
      (crc32BitNat c.crc32Poly.toNat)^[8] ((crc32r c bs ^^^ c.crc32Xorout).toNat ^^^ b.toNat) := by
  have hb : (b.setWidth 32).toNat = b.toNat := BitVec.toNat_setWidth_of_le (by decide)
  rw [crc32r_append_xorout, crc32Byte, crc32Bit_repeat_toNat, BitVec.toNat_xor, hb]

/-! ### What the span functions compute -/

/-- R138. -/
theorem spanFunctions_nil (c : Cfg) :
    crc24q c [] = c.crc24Init ∧ crc32r c [] = c.crc32Init ^^^ c.crc32Xorout ∧ fletcher [] = 0 ∧ xor8 [] = 0 ∧
      xorhex [] = 0x3030 :=
  ⟨BitVec.setWidth_setWidth_of_le _ (by decide), rfl, rfl, rfl, rfl⟩

/-- Settles O28: each function by its lemma. -/
theorem fletcherAndEmptySpans : Obligations.FletcherAndEmptySpans :=
  ⟨fletcher_toNat, fun bs j _ => xor8_getLsbD_toNat bs j, xorhex_eq_hexDigits,
    fun _ bs b hpoly => crc24q_append_toNat ((BitVec.msb_eq_getLsbD_last _).trans hpoly) bs b, crc32r_append_toNat,
    spanFunctions_nil⟩

/-! ### The residue of a span followed by its CRC (R139) -/

theorem xor_mod_two_pow_self (n k : Nat) : n ^^^ n % 2 ^ k = n / 2 ^ k * 2 ^ k := by
  refine Nat.eq_of_testBit_eq fun i => ?_
  by_cases hi : i < k
  · simp [Nat.testBit_mod_two_pow, Nat.testBit_mul_two_pow, hi]
  · simp [Nat.testBit_mod_two_pow, Nat.testBit_mul_two_pow, Nat.testBit_div_two_pow, hi, Nat.not_lt.1 hi]

theorem xor_div_mul_two_pow_self (n k : Nat) : n ^^^ n / 2 ^ k * 2 ^ k = n % 2 ^ k := by
  rw [← xor_mod_two_pow_self, ← Nat.xor_assoc, Nat.xor_self, Nat.zero_xor]

/-- While no 1 reaches bit 24, the steps of R121 shift left. -/
theorem crc24BitNat_iterate_of_lt (poly r : Nat) {n : Nat} (h : r * 2 ^ n < 2 ^ 24) :
    (crc24BitNat poly)^[n] r = r * 2 ^ n := by
  induction n with
  | zero => simp
  | succ n ih =>
    rw [pow_succ, ← mul_assoc] at h
    rw [Function.iterate_succ_apply', ih (by omega), crc24BitNat, if_pos (by omega), pow_succ]
    ring

/-- While no 1 is shifted out, the steps of R122 shift right. -/
theorem crc32BitNat_iterate_of_mul (poly r n : Nat) : (crc32BitNat poly)^[n] (r * 2 ^ n) = r := by
  induction n generalizing r with
  | zero => simp
  | succ n ih =>
    rw [Function.iterate_succ_apply', pow_succ, show r * (2 ^ n * 2) = 2 * r * 2 ^ n by ring, ih, crc32BitNat,
      if_neg (by omega)]
    omega

/-- The byte that cancels bits 23:16 of the register is the top byte of the CRC: what is left moves up. -/
theorem crc24q_append_top {c : Cfg} (hpoly : c.crc24Poly.msb = true) {bs : List Byte} {r : BitVec 24}
    (hr : crc24q c bs = r) : crc24q c (bs ++ [r.extractLsb' 16 8]) = r <<< 8 := by
  have hlt := r.isLt
  have htop : (r.extractLsb' 16 8).toNat = r.toNat / 2 ^ 16 := by
    rw [BitVec.extractLsb'_toNat, Nat.shiftRight_eq_div_pow]
    omega
  refine BitVec.eq_of_toNat_eq ?_
  rw [crc24q_append_toNat hpoly, hr, htop, xor_div_mul_two_pow_self, crc24BitNat_iterate_of_lt _ _ (by omega),
    BitVec.toNat_shiftLeft, Nat.shiftLeft_eq]
  omega

/-- The byte that cancels bits 7:0 of the register is its low byte: what is left moves down. -/
theorem crc32r_append_low {c : Cfg} (hxor : c.crc32Xorout = 0) {bs : List Byte} {r : Word} (hr : crc32r c bs = r) :
    crc32r c (bs ++ [r.extractLsb' 0 8]) = r >>> 8 := by
  have hlow : (r.extractLsb' 0 8).toNat = r.toNat % 2 ^ 8 := BitVec.extractLsb'_toNat ..
  have happend := crc32r_append_toNat c bs (r.extractLsb' 0 8)
  simp only [hr, hlow, hxor, BitVec.ofNat_eq_ofNat, BitVec.xor_zero] at happend
  rw [xor_mod_two_pow_self, crc32BitNat_iterate_of_mul] at happend
  exact BitVec.eq_of_toNat_eq (by rw [happend, BitVec.toNat_ushiftRight, Nat.shiftRight_eq_div_pow])

theorem extractLsb'_shiftLeft_byte (x : BitVec 24) {n k : Nat} (h : n + k = 16) :
    (x <<< n).extractLsb' 16 8 = x.extractLsb' k 8 := by
  obtain rfl : k = 16 - n := by omega
  ext i hi
  simp only [BitVec.getElem_extractLsb', BitVec.getLsbD_shiftLeft]
  rw [show 16 + i - n = 16 - n + i by omega]
  simp
  omega

theorem extractLsb'_ushiftRight_byte (x : Word) (n : Nat) : (x >>> n).extractLsb' 0 8 = x.extractLsb' n 8 := by
  ext i hi
  simp

/-- The bytes of a CRC-24Q, most significant first, are the top bytes of the register as it is shifted out. -/
theorem crc24q_residue {c : Cfg} (hpoly : c.crc24Poly.msb = true) (bs : List Byte) :
    crc24q c (bs ++ [(crc24q c bs).extractLsb' 16 8, (crc24q c bs).extractLsb' 8 8, (crc24q c bs).extractLsb' 0 8])
      = 0 := by
  have hresidue := crc24q_append_top hpoly (crc24q_append_top hpoly (crc24q_append_top hpoly (bs := bs) rfl))
  rw [← BitVec.shiftLeft_add, ← BitVec.shiftLeft_add, extractLsb'_shiftLeft_byte _ (k := 8) rfl,
    extractLsb'_shiftLeft_byte _ (k := 0) rfl, BitVec.shiftLeft_eq_zero (by decide)] at hresidue
  simpa using hresidue

/-- The bytes of a CRC-32, least significant first, are the low bytes of the register as it is shifted out. -/
theorem crc32r_residue {c : Cfg} (hxor : c.crc32Xorout = 0) (bs : List Byte) :
    crc32r c (bs ++ [(crc32r c bs).extractLsb' 0 8, (crc32r c bs).extractLsb' 8 8, (crc32r c bs).extractLsb' 16 8,
      (crc32r c bs).extractLsb' 24 8]) = 0 := by
  have hresidue := crc32r_append_low hxor (crc32r_append_low hxor (crc32r_append_low hxor
    (crc32r_append_low hxor (bs := bs) rfl)))
  simp only [← BitVec.shiftRight_add, extractLsb'_ushiftRight_byte] at hresidue
  rw [BitVec.ushiftRight_eq_zero (by decide)] at hresidue
  simpa using hresidue

/-- Settles O27: the step of a polynomial with its leading 1, and the final exclusive-or with 0. -/
theorem crcResidueIsZero : Obligations.CrcResidueIsZero := fun _ bs =>
  ⟨fun hpoly _ => crc24q_residue (by rw [hpoly]; rfl) bs, fun _ _ hxor => crc32r_residue hxor bs⟩

/-! ### `norm` and `hampar` bit by bit (R125) -/

theorem popcount_eq_sum {n : Nat} (v : BitVec n) : popcount v = ∑ k ∈ Finset.range n, (v.getLsbD k).toNat := by
  have hcard : popcount v = ((Finset.range n).filter fun k => v.getMsbD k).card := by
    simp [popcount, setPositions, Finset.card, Finset.filter, Multiset.range]
  rw [hcard, Finset.card_filter, ← Finset.sum_range_reflect]
  refine Finset.sum_congr rfl fun k hk => ?_
  have hk' := Finset.mem_range.1 hk
  rw [BitVec.getMsbD_eq_getLsbD, show n - 1 - (n - 1 - k) = k by omega]
  cases v.getLsbD k <;> simp
  omega

theorem hamBit_toNat (mask y : Word) : ((hamBit mask y).getLsbD 0).toNat =
    (∑ k ∈ Finset.range 32, (y.getLsbD k && mask.getLsbD k).toNat) % 2 := by
  have hbit : ((hamBit mask y).getLsbD 0).toNat = popcount (y &&& mask) % 2 := by
    rw [hamBit, BitVec.getLsbD_ofNat, Nat.testBit_zero]
    obtain h | h := Nat.mod_two_eq_zero_or_one (popcount (y &&& mask)) <;> simp [h]
  simp only [hbit, popcount_eq_sum, BitVec.getLsbD_and]

theorem hamNorm_getLsbD (x : Word) {i : Nat} (hi : i < 32) : (hamNorm x).getLsbD i =
    if 6 ≤ i ∧ i ≤ 29 then x.getLsbD i ^^ x.getLsbD 30 else x.getLsbD i := by
  have hdata : ∀ i < 32, (0x3FFFFFC0 : Word).getLsbD i = decide (6 ≤ i ∧ i ≤ 29) := by decide
  cases h30 : x.getLsbD 30 with
  | false => rw [hamNorm, if_neg (ne_true_of_eq_false h30), Bool.xor_false, ite_self]
  | true =>
    rw [hamNorm, if_pos h30, BitVec.getLsbD_xor, hdata i hi]
    by_cases h : 6 ≤ i ∧ i ≤ 29 <;> simp [h]

/-- `p_i` is bit `5 - i` of `hampar`. -/
theorem hampar_getLsbD (c : Cfg) (x : Word) :
    ∀ e ∈ [(5, c.hamMask.m0), (4, c.hamMask.m1), (3, c.hamMask.m2), (2, c.hamMask.m3), (1, c.hamMask.m4),
        (0, c.hamMask.m5)], (hampar c x).getLsbD e.1 = (hamBit e.2 (hamNorm x)).getLsbD 0 := by
  simp only [List.forall_mem_cons, hampar, BitVec.getLsbD_append]
  simp

/-! ### The word a host builds (R140) -/

/-- A legacy word: the last two bits of the word before, 24 bits of data as sent, 6 of parity (R125). -/
def hamWord (q : BitVec 2) (t : BitVec 24) (p : BitVec 6) : Word := q ++ (t ++ p)

theorem hamWord_getLsbD (q : BitVec 2) (t : BitVec 24) (p : BitVec 6) (i : Nat) :
    (hamWord q t p).getLsbD i =
      if i < 6 then p.getLsbD i else if i < 30 then t.getLsbD (i - 6) else q.getLsbD (i - 30) := by
  rw [hamWord, BitVec.getLsbD_append, BitVec.getLsbD_append]
  by_cases h6 : i < 6
  · simp [h6, show i < 30 by omega]
  · simp [h6]

/-- Source data as sent or as normed: inverted after a word that ends in 1. -/
def invertAfter (q : BitVec 2) (d : BitVec 24) : BitVec 24 := if q.getLsbD 0 then d ^^^ 0xFFFFFF else d

@[simp] theorem invertAfter_invertAfter (q : BitVec 2) (d : BitVec 24) : invertAfter q (invertAfter q d) = d := by
  unfold invertAfter
  split
  · rw [BitVec.xor_assoc, BitVec.xor_self, BitVec.xor_zero]
  · rfl

theorem invertAfter_getLsbD (q : BitVec 2) (d : BitVec 24) {i : Nat} (hi : i < 24) :
    (invertAfter q d).getLsbD i = (d.getLsbD i ^^ q.getLsbD 0) := by
  have hones : ∀ i < 24, (0xFFFFFF : BitVec 24).getLsbD i = true := by decide
  cases hq : q.getLsbD 0 with
  | false => rw [invertAfter, if_neg (ne_true_of_eq_false hq), Bool.xor_false]
  | true => rw [invertAfter, if_pos hq, BitVec.getLsbD_xor, hones i hi]

theorem append_hamSend (c : Cfg) (q : BitVec 2) (d : BitVec 24) : (q ++ hamSend c q d : Word) =
    hamWord q (invertAfter q d) (hampar c (hamWord q (invertAfter q d) 0)) := by
  have hassoc : (q ++ invertAfter q d ++ (0 : BitVec 6) : Word) = hamWord q (invertAfter q d) 0 :=
    BitVec.append_assoc ..
  rw [← hassoc]
  rfl

theorem hamNorm_hamWord (q : BitVec 2) (t : BitVec 24) (p : BitVec 6) :
    hamNorm (hamWord q t p) = hamWord q (invertAfter q t) p := by
  refine BitVec.eq_of_getLsbD_eq fun i hi => ?_
  have h30 : (hamWord q t p).getLsbD 30 = q.getLsbD 0 := by rw [hamWord_getLsbD]; simp
  rw [hamNorm_getLsbD _ hi, h30, hamWord_getLsbD, hamWord_getLsbD]
  by_cases hdata : 6 ≤ i ∧ i ≤ 29
  · rw [if_pos hdata, if_neg (by omega), if_pos (by omega), if_neg (by omega), if_pos (by omega),
      invertAfter_getLsbD _ _ (by omega)]
  · rw [if_neg hdata]
    by_cases h6 : i < 6
    · rw [if_pos h6, if_pos h6]
    · rw [if_neg h6, if_neg h6, if_neg (by omega), if_neg (by omega)]

theorem hamWord_parity (q : BitVec 2) (t : BitVec 24) (p : BitVec 6) : (hamWord q t p).extractLsb' 0 6 = p :=
  BitVec.eq_of_getLsbD_eq fun i hi => by simp [hamWord_getLsbD, hi]

theorem hamWord_data (q : BitVec 2) (t : BitVec 24) (p : BitVec 6) : (hamWord q t p).extractLsb' 6 24 = t :=
  BitVec.eq_of_getLsbD_eq fun i hi => by simp [hamWord_getLsbD, hi]; omega

theorem hamdata_hamWord (q : BitVec 2) (t : BitVec 24) (p : BitVec 6) :
    hamdata (hamWord q t p) = invertAfter q t := by
  rw [hamdata, hamNorm_hamWord, hamWord_data]

/-- A mask without a bit below 6 does not see the parity a word carries. -/
theorem hamBit_hamWord {mask : Word} (hmask : mask.extractLsb' 0 6 = 0) (q : BitVec 2) (t : BitVec 24)
    (p : BitVec 6) : hamBit mask (hamWord q t p) = hamBit mask (hamWord q t 0) := by
  suffices h : hamWord q t p &&& mask = hamWord q t 0 &&& mask by rw [hamBit, h, hamBit]
  refine BitVec.eq_of_getLsbD_eq fun i hi => ?_
  rw [BitVec.getLsbD_and, BitVec.getLsbD_and, hamWord_getLsbD, hamWord_getLsbD]
  by_cases h6 : i < 6
  · have hclear : mask.getLsbD i = false := by
      simpa [h6] using congrArg (·.getLsbD i) hmask
    simp [hclear]
  · rw [if_neg h6, if_neg h6]

/-- With the default masks the parity of a word does not depend on the parity it carries (R130). -/
theorem hampar_hamWord {c : Cfg} (hc : c.hamMask = hamStandard) (q : BitVec 2) (t : BitVec 24) (p : BitVec 6) :
    hampar c (hamWord q t p) = hampar c (hamWord q t 0) := by
  simp only [hampar, hc, hamNorm_hamWord]
  have hbit (mask : Word) (hmask : mask.extractLsb' 0 6 = 0) := hamBit_hamWord hmask q (invertAfter q t) p
  rw [hbit hamStandard.m0 rfl, hbit hamStandard.m1 rfl, hbit hamStandard.m2 rfl, hbit hamStandard.m3 rfl,
    hbit hamStandard.m4 rfl, hbit hamStandard.m5 rfl]

/-- Settles O29: the parity the word carries is its own, and its data are inverted twice or not at all. -/
theorem hostBuiltLegacyWordDecodes : Obligations.HostBuiltLegacyWordDecodes := by
  intro c q d hc
  rw [append_hamSend]
  constructor
  · rw [hamok, hamNorm_hamWord, hamWord_parity, hampar_hamWord hc, beq_self_eq_true]
  · rw [hamdata_hamWord, invertAfter_invertAfter]

/-! ### The commands (R126 to R136) -/

theorem onSpan_inside {a : BitVec 16} {l : Word} (f : List Byte → State → State) {s : State}
    (hin : a.toNat + l.toNat ≤ bufCapacity s.cfg) :
    onSpan a l f s = .next (f (memRead s.buf a.toNat l.toNat) s) :=
  onSpan_ok (by simpa [spanInBuf] using hin)

/-- Settles O24: the effect of each command on a span inside the buffer. -/
theorem computeCommandsOverASpan : Obligations.ComputeCommandsOverASpan := fun _ _ _ hin =>
  ⟨onSpan_inside (fun bs t => setRes0 ((crc24q t.cfg bs).setWidth 32) t) hin,
    onSpan_inside (fun bs t => setRes0 (crc32r t.cfg bs) t) hin,
    onSpan_inside (fun bs t => setRes0 ((fletcher bs).setWidth 32) t) hin, onSpan_inside setXorResults hin⟩

/-- A verify result is the equality of the two values (R131). -/
theorem setVerify_beq {n : Nat} (x e : BitVec n) (s : State) :
    setVerify (x == e) s = { s with res0 := if x = e then 1 else 0, vok := decide (x = e) } := by
  by_cases h : x = e <;> simp [setVerify, h]

theorem onSpan_verify_inside {n : Nat} {a : BitVec 16} {l : Word} (value : List Byte → State → BitVec n) (e : BitVec n)
    {s : State} (hin : a.toNat + l.toNat ≤ bufCapacity s.cfg) :
    onSpan a l (fun bs t => setVerify (value bs t == e) t) s = .next { s with
      res0 := if value (memRead s.buf a.toNat l.toNat) s = e then 1 else 0
      vok := decide (value (memRead s.buf a.toNat l.toNat) s = e) } := by
  rw [onSpan_inside _ hin, setVerify_beq]

/-- Settles O25: each command compares the value of its function. -/
theorem verifyCommandsOverASpan : Obligations.VerifyCommandsOverASpan := fun _ _ _ hin =>
  ⟨fun e => onSpan_verify_inside (fun bs t => crc24q t.cfg bs) e hin,
    fun e => onSpan_verify_inside (fun bs t => crc32r t.cfg bs) e hin,
    fun e => onSpan_verify_inside (fun bs _ => fletcher bs) e hin,
    fun e => onSpan_verify_inside (fun bs _ => xorhex bs) e hin⟩

theorem execHamdec_ok {s : State} {x : Word} (h : hampar s.cfg x = (hamNorm x).extractLsb' 0 6) :
    execHamdec x s = .next { s with res0 := (hamdata x).setWidth 32, vok := true } :=
  if_pos (beq_iff_eq.2 h)

theorem execHamdec_bad {s : State} {x : Word} (h : hampar s.cfg x ≠ (hamNorm x).extractLsb' 0 6) :
    execHamdec x s = .next { s with res0 := 0, vok := false } :=
  if_neg (mt beq_iff_eq.1 h)

/-- Settles O26: the bits of `norm` and `hampar`, then each command by its branch. -/
theorem hammingCommands : Obligations.HammingCommands := fun s x =>
  ⟨fun _ hi => hamNorm_getLsbD x hi,
    fun e he => by rw [hampar_getLsbD s.cfg x e he, hamBit_toNat],
    rfl, fun e => congrArg _ (setVerify_beq (hampar s.cfg x) e s), execHamdec_ok, execHamdec_bad⟩

end Sys2Proof.Machine
end

section
/-! Proofs for 42_framer.md, sections 1 to 4: `PUSH` and `RESET` whatever the protocol (R150, R151, R160), and the generic
machine (R154 to R159) with its four descriptors (R162 to R169) and noise before a frame (R182). -/

namespace Sys2Proof.Machine

/-! ### `PUSH` and `RESET` whatever the protocol -/

/-- `RES0` after a `PUSH`, as a case split on `DONE` (R150). -/
theorem reportDone_res0_eq_ite (s : State) : (reportDone s).res0 = if s.done then 1 else 0 := by
  cases hd : s.done <;> simp [hd]

/-- A `PUSH` that completes a frame answers 1. -/
theorem reportDone_true {s : State} (h : s.done = true) : reportDone s = { s with res0 := 1 } := by
  simp [reportDone, setRes0, h]

/-- Settles O39: by the definition of `RESET`. -/
theorem resetCommandClearsTheFramer : Obligations.ResetCommandClearsTheFramer := fun _ => rfl

/-- Settles O30: the frame and the event cases are those of every framer step, after the flags are cleared. -/
theorem pushAlwaysCompletes : Obligations.PushAlwaysCompletes := by
  intro s b hc
  obtain ⟨⟨hcfg, -, hres1, hvok, hmvalid, hill, hpos, hmsm, hport, -⟩, hevents, -⟩ := framerStep_one b (clearPushFlags s)
  refine ⟨_, push_runs b hc, reportDone_res0_eq_ite _, hcfg, hres1, hvok, hmvalid, hill, hpos, hmsm, hport,
    (framerStep_fvalid b s).symm, ?_⟩
  obtain ⟨hev, hle, hdone, -⟩ | ⟨id, bs, o, l, hev, hle, hdone, -⟩ | ⟨k, id, hk, hev, hle, hdone, -⟩ := hevents
  · exact .inl ⟨hev, hle, hdone⟩
  · exact .inr (.inl ⟨id, bs, o, l, hev, hle, hdone⟩)
  · exact .inr (.inr ⟨k, id, hk, hev, hle, hdone⟩)

/-- Settles O40: an event of a framer step leaves it in `SYNC` with `CNT = 0`. -/
theorem everyEventReturnsTheFramerToSync : Obligations.EveryEventReturnsTheFramerToSync := by
  intro s t b hc hpre hpush hev
  rw [push_runs b hc] at hpush
  cases hpush
  obtain ⟨-, -, hsync⟩ := framerStep_one b (clearPushFlags s)
  exact hsync hpre hev

/-! ### The sync search of the generic machine -/

section Search
variable {g : Generic} {b : Byte} {s : State}

/-- R154: the next sync byte. -/
theorem syncSearch_next (h : (syncBytes s.cfg g)[s.cnt.toNat]? = some b) :
    syncSearch g b s = { s with
      buf := Memory.set s.buf s.cnt.toNat b, cnt := s.cnt + 1
      phase := if (s.cnt + 1).toNat = (syncBytes s.cfg g).length then .header else s.phase } := by
  simp only [syncSearch, syncMatch, if_pos h, takeByte]
  split_ifs <;> rfl

/-- R154: the first sync byte in place of the next one. -/
theorem syncSearch_restart (hnext : (syncBytes s.cfg g)[s.cnt.toNat]? ≠ some b)
    (hfirst : (syncBytes s.cfg g)[0]? = some b) :
    syncSearch g b s = { s with
      buf := Memory.set s.buf 0 b, cnt := 1
      phase := if (syncBytes s.cfg g).length = 1 then .header else s.phase } := by
  have hone : (1 : BitVec 17).toNat = (syncBytes s.cfg g).length ↔ (syncBytes s.cfg g).length = 1 := eq_comm
  simp only [syncSearch, syncMatch, if_neg hnext, if_pos hfirst, hone]
  split_ifs <;> rfl

/-- R154: any other byte. -/
theorem syncSearch_miss (hsy : syncBytes s.cfg g ≠ []) (hnext : (syncBytes s.cfg g)[s.cnt.toNat]? ≠ some b)
    (hfirst : (syncBytes s.cfg g)[0]? ≠ some b) : syncSearch g b s = { s with cnt := 0 } := by
  have hpos := List.length_pos_iff.2 hsy
  simp only [syncSearch, syncMatch, if_neg hnext, if_neg hfirst]
  exact if_neg hpos.ne

end Search

/-- Settles O31: `PUSH` in `SYNC` is the search, one lemma per branch of R154. -/
theorem genericSyncSearch : Obligations.GenericSyncSearch := by
  intro s b g hc hg hp
  obtain ⟨hsy, -⟩ := generic_cfg_facts hc hg
  have hpush := push_in_sync b hc hg hp
  refine ⟨fun hnext => ?_, fun hnext hfirst => ?_, fun hnext hfirst => ?_⟩
  · rw [hpush, syncSearch_next (s := clearPushFlags s) hnext, reportDone_false rfl, clearPushFlags_phase, hp]
    rfl
  · rw [hpush, syncSearch_restart (s := clearPushFlags s) hnext hfirst, reportDone_false rfl, clearPushFlags_phase, hp]
    rfl
  · rw [hpush, syncSearch_miss (s := clearPushFlags s) hsy hnext hfirst, reportDone_false rfl]
    rfl

/-- R159: the first sync byte outside `SYNC` starts a search at `BUF[0]`. -/
theorem push_resync {s : State} {g : Generic} {b : Byte} (hc : cfgWf s.cfg = true)
    (hg : genericOf s.cfg.proto = some g) (hp : s.phase ≠ .sync) (hmid : midSync s.cfg g = true)
    (hfirst : (syncBytes s.cfg g)[0]? = some b) :
    exec (.push b) s = .next (reportDone (syncSearch g b (toSync (clearPushFlags s)))) := by
  have hresync : resyncMid g b (clearPushFlags s) = toSync (clearPushFlags s) := if_pos ⟨hp, hmid, hfirst⟩
  rw [push_runs b hc, (genericOf_step (s := clearPushFlags s) hg b).1, genericStep, hresync]
  rfl

/-- Settles O35: R159, then the first sync byte of R154 at `CNT = 0`. -/
theorem midFrameSyncByteRestarts : Obligations.MidFrameSyncByteRestarts := by
  refine ⟨fun _ => rfl, fun s b g hc hg hp hmid hfirst => ?_⟩
  have hone : (0 + 1 : BitVec 17).toNat = (syncBytes s.cfg g).length ↔ (syncBytes s.cfg g).length = 1 := eq_comm
  rw [push_resync hc hg hp hmid hfirst, syncSearch_next (s := toSync (clearPushFlags s)) hfirst, reportDone_false rfl]
  simp only [toSync_cnt, toSync_cfg, clearPushFlags_cfg, hone]
  rfl

/-! ### Noise before a frame -/

/-- A byte that leaves the state but for the flags and `RES0` may be repeated (R182). -/
theorem pushn_skipped {s : State} {bs : List Byte} (hne : bs ≠ [])
    (hskip : ∀ b ∈ bs, ∀ t : State, t.cfg = s.cfg → t.phase = s.phase → t.cnt = s.cnt →
      exec (.push b) t = .next { t with done := false, fvalid := false, lastErr := none, res0 := 0 }) :
    pushn bs s = .next ((), { s with done := false, fvalid := false, lastErr := none, res0 := 0 }) := by
  induction bs generalizing s with
  | nil => exact absurd rfl hne
  | cons b bs ih =>
    rw [pushn_cons bs (hskip b (by simp) s rfl rfl rfl)]
    cases bs with
    | nil => rfl
    | cons c cs => exact ih (by simp) fun d hd => hskip d (List.mem_cons_of_mem b hd)

/-- An NMEA instance in `SYNC` skips a byte that is no marker (R171). -/
theorem push_text_skipped {s : State} {b : Byte} (hc : cfgWf s.cfg = true) (hP : s.cfg.proto = .nmea)
    (h1 : b ≠ 0x24) (h2 : b ≠ 0x21) (hp : s.phase = .sync) :
    exec (.push b) s = .next { s with done := false, fvalid := false, lastErr := none, res0 := 0 } := by
  have hstep : textStep b (clearPushFlags s) = clearPushFlags s := by
    rw [textStep, if_neg (by simp [isMarker_false h1 h2])]
    exact if_pos hp
  rw [push_text b hc hP, hstep, reportDone_false rfl]
  rfl

/-- Settles O37: each byte is skipped, by R154 on a generic instance and by R171 on NMEA. -/
theorem noiseBeforeAFrameIsSkipped : Obligations.NoiseBeforeAFrameIsSkipped := by
  refine ⟨fun s bs g hc hg hp h0 hne hnoise => pushn_skipped hne fun b hb t hcfg hphase hcnt => ?_,
    fun s bs hc hP hp hne hnoise => pushn_skipped hne fun b hb t hcfg hphase _ => ?_⟩
  · have hcnt0 : t.cnt = 0 := hcnt.trans h0
    have hfirst : (syncBytes t.cfg g)[0]? ≠ some b := by rw [hcfg]; exact hnoise b hb
    have hnext : (syncBytes t.cfg g)[t.cnt.toNat]? ≠ some b := by rw [hcnt0]; exact hfirst
    obtain ⟨-, -, hmiss⟩ := genericSyncSearch t b g (hcfg ▸ hc) (hcfg ▸ hg) (hphase.trans hp)
    rw [hmiss hnext hfirst, ← hcnt0]
  · obtain ⟨h1, h2⟩ := hnoise b hb
    exact push_text_skipped (hcfg ▸ hc) (hcfg ▸ hP) h1 h2 (hphase.trans hp)

/-! ### A byte outside `SYNC` -/

/-- The next store of a generic instance is inside the buffer (R155, R156). -/
theorem generic_cnt_lt {g : Generic} {s : State} (hc : cfgWf s.cfg = true) (hg : genericOf s.cfg.proto = some g)
    (hp : s.phase ≠ .sync) (hi : GenericInv g s) : s.cnt.toNat < bufCapacity s.cfg := by
  obtain ⟨-, -, hfit, -⟩ := generic_cfg_facts hc hg
  rw [GenericInv, if_neg hp] at hi
  obtain ⟨-, -, hknown⟩ := hi
  by_cases hk : s.cnt.toNat < lKnown s.cfg g
  · omega
  · obtain ⟨-, hlt, hle, -⟩ := hknown (by omega)
    omega

section FrameByte
variable {g : Generic} {b : Byte} {s : State}

theorem takeByte_cnt_toNat (b : Byte) (hin : s.cnt.toNat < 65536) : (takeByte b s).cnt.toNat = s.cnt.toNat + 1 :=
  cnt_succ rfl hin

/-- R155 below `LKNOWN`. -/
theorem frameByte_before_lengths (hin : s.cnt.toNat < 65536) (h : s.cnt.toNat + 1 < lKnown s.cfg g) :
    frameByte g b s = takeByte b s := by
  have hcnt := takeByte_cnt_toNat b hin
  exact if_pos (by rw [hcnt]; exact h)

/-- R155 at `LKNOWN`. -/
theorem frameByte_at_lengths (hin : s.cnt.toNat < 65536) (h : s.cnt.toNat + 1 = lKnown s.cfg g) :
    frameByte g b s = lengthStep g (takeByte b s) := by
  have hcnt := takeByte_cnt_toNat b hin
  simp only [frameByte, hcnt, h, lt_irrefl, if_true, if_false]

/-- R155 past `LKNOWN`. -/
theorem frameByte_after_lengths (hin : s.cnt.toNat < 65536) (h : lKnown s.cfg g < s.cnt.toNat + 1) :
    frameByte g b s = phaseStep g (takeByte b s) := by
  have hcnt := takeByte_cnt_toNat b hin
  simp only [frameByte, hcnt, if_neg h.not_gt, if_neg h.ne']

end FrameByte

/-- Settles O32: R155 stores at `CNT`, which the invariant puts inside the buffer. -/
theorem genericByteIsStoredAtCnt : Obligations.GenericByteIsStoredAtCnt := by
  intro s b g hi hg hp hmid
  have hc : cfgWf s.cfg = true := hi.1
  have hin := generic_cnt_lt hc hg hp (generic_of_stateInv hi hg)
  have hcap := (capacity_bounds hc).2
  refine ⟨hin, _, push_outside_sync b hc hg hp hmid, ?_, fun a ha => ?_, fun hlow => ?_⟩
  · rw [reportDone_buf, frameByte_buf]
    exact byteAt_set_same ..
  · rw [reportDone_buf, frameByte_buf]
    exact byteAt_set_other _ _ ha
  · rw [frameByte_before_lengths (s := clearPushFlags s) (by exact hin.trans_le hcap) hlow]
    exact ⟨takeByte_cnt_toNat (s := s) b (hin.trans_le hcap), rfl, rfl⟩

/-! ### The lengths -/

section Lengths
variable {g : Generic} {s : State}

/-- R156: lengths that contradict the bytes taken. -/
theorem lengthStep_contradiction
    (h : headerLen s.cfg s.buf g < lKnown s.cfg g ∨ payloadLen s.cfg s.buf g < 0) : lengthStep g s = toSync s :=
  if_pos h

/-- R156: a frame larger than the buffer. -/
theorem lengthStep_oversize (hh : lKnown s.cfg g ≤ headerLen s.cfg s.buf g) (hp : 0 ≤ payloadLen s.cfg s.buf g)
    (hbig : bufCapacity s.cfg < headerLen s.cfg s.buf g + (payloadLen s.cfg s.buf g).toNat + ckBytes g) :
    lengthStep g s = toSync (raiseErr .size none s) := by
  rw [lengthStep, if_neg (by omega), if_pos hbig]

/-- R156: a frame that fits. -/
theorem lengthStep_fits (hh : lKnown s.cfg g ≤ headerLen s.cfg s.buf g) (hp : 0 ≤ payloadLen s.cfg s.buf g)
    (hfit : headerLen s.cfg s.buf g + (payloadLen s.cfg s.buf g).toNat + ckBytes g ≤ bufCapacity s.cfg) :
    lengthStep g s = phaseStep g { s with
      hlen := BitVec.ofNat 16 (headerLen s.cfg s.buf g), plen := BitVec.ofNat 16 (payloadLen s.cfg s.buf g).toNat } := by
  rw [lengthStep, if_neg (by omega), if_neg (by omega)]

theorem completeFrame_lengths (g : Generic) (s : State) :
    (completeFrame g s).hlen = s.hlen ∧ (completeFrame g s).plen = s.plen := by
  unfold completeFrame; split <;> exact ⟨rfl, rfl⟩

theorem phaseStep_lengths (g : Generic) (s : State) :
    (phaseStep g s).hlen = s.hlen ∧ (phaseStep g s).plen = s.plen := by
  unfold phaseStep; split_ifs
  · exact ⟨rfl, rfl⟩
  · exact ⟨rfl, rfl⟩
  · exact ⟨rfl, rfl⟩
  · exact completeFrame_lengths g s

end Lengths

/-- Settles O33: the three outcomes of R156 at `LKNOWN`. -/
theorem genericLengthDetermination : Obligations.GenericLengthDetermination := by
  rintro s b g m hc hg hp hmid hat rfl
  obtain ⟨-, -, hle, hcap, -⟩ := generic_cfg_facts hc hg
  have hpush : exec (.push b) s = .next (reportDone (lengthStep g (takeByte b (clearPushFlags s)))) := by
    rw [push_outside_sync b hc hg hp hmid, frameByte_at_lengths (s := clearPushFlags s) ?_ hat]
    show s.cnt.toNat < 65536
    omega
  refine ⟨fun hbad => ?_, fun hh hpl hbig => ?_, fun hh hpl hfit => ?_⟩
  · rw [hpush, lengthStep_contradiction (s := takeByte b (clearPushFlags s)) hbad, reportDone_false rfl]
    rfl
  · rw [hpush, lengthStep_oversize (s := takeByte b (clearPushFlags s)) hh hpl hbig, reportDone_false rfl]
    rfl
  · refine ⟨_, hpush, ?_, ?_⟩
    · rw [reportDone_buf, lengthStep_buf]
      rfl
    · have hhl := headerLen_lt s.cfg (Memory.set s.buf s.cnt.toNat b) g
      have hpl' := payloadLen_lt s.cfg (Memory.set s.buf s.cnt.toNat b) g
      rw [lengthStep_fits (s := takeByte b (clearPushFlags s)) hh hpl hfit]
      simp only [reportDone_hlen, reportDone_plen, phaseStep_lengths, takeByte_buf, takeByte_cfg, clearPushFlags_buf,
        clearPushFlags_cfg, clearPushFlags_cnt, BitVec.toNat_ofNat]
      omega

/-! ### The phase of the next byte, and completion -/

/-- The lengths `H`, `P` of the frame that the byte just stored, giving the buffer `m`, belongs to: held, or just
determined and fitting (R156). -/
def LengthsKnown (g : Generic) (s : State) (m : Memory) (H P : Nat) : Prop :=
  (lKnown s.cfg g < s.cnt.toNat + 1 ∧ H = s.hlen.toNat ∧ P = s.plen.toNat) ∨
  (s.cnt.toNat + 1 = lKnown s.cfg g ∧ H = headerLen s.cfg m g ∧ (P : Int) = payloadLen s.cfg m g ∧
    lKnown s.cfg g ≤ H ∧ H + P + ckBytes g ≤ bufCapacity s.cfg)

section Completion
variable {g : Generic} {s : State} {H P : Nat}

/-- The lengths fit their registers, and the byte just stored is within the frame. -/
theorem LengthsKnown.bounds {m : Memory} (hp : s.phase ≠ .sync) (hi : GenericInv g s) (h : LengthsKnown g s m H P) :
    H < 2 ^ 16 ∧ P < 2 ^ 16 ∧ s.cnt.toNat + 1 ≤ H + P + ckBytes g := by
  rw [GenericInv, if_neg hp] at hi
  obtain ⟨-, -, hknown⟩ := hi
  obtain ⟨hpast, rfl, rfl⟩ | ⟨hat, hH, hP, hle, -⟩ := h
  · obtain ⟨-, hlt, -, -⟩ := hknown (by omega)
    exact ⟨s.hlen.isLt, s.plen.isLt, hlt⟩
  · have hhl := headerLen_lt s.cfg m g
    have hpl := payloadLen_lt s.cfg m g
    omega

/-- From `LKNOWN` on the byte is stored, the lengths are in their registers, and R157 follows (R155, R156). -/
theorem LengthsKnown.frameByte_eq (b : Byte) (hin : s.cnt.toNat < 65536)
    (h : LengthsKnown g s (Memory.set s.buf s.cnt.toNat b) H P) :
    frameByte g b s = phaseStep g { takeByte b s with hlen := BitVec.ofNat 16 H, plen := BitVec.ofNat 16 P } := by
  obtain ⟨hpast, rfl, rfl⟩ | ⟨hat, rfl, hP, hle, hfit⟩ := h
  · rw [frameByte_after_lengths hin hpast, BitVec.ofNat_toNat, BitVec.ofNat_toNat, BitVec.setWidth_eq, BitVec.setWidth_eq]
    rfl
  · have hpl : (payloadLen s.cfg (Memory.set s.buf s.cnt.toNat b) g).toNat = P := by omega
    rw [frameByte_at_lengths hin hat]
    subst hpl
    exact lengthStep_fits (s := takeByte b s) hle (by rw [takeByte_buf, takeByte_cfg]; omega) hfit

/-- R157: the phase of the byte after this one. -/
theorem phaseStep_next (h : s.cnt.toNat < s.hlen.toNat + s.plen.toNat + ckBytes g) :
    phaseStep g s = { s with
      phase := if s.cnt.toNat < s.hlen.toNat then .header
        else if s.cnt.toNat < s.hlen.toNat + s.plen.toNat then .payload else .check } := by
  unfold phaseStep
  split_ifs <;> rfl

theorem frameChecks_iff : frameChecks g s = true ↔
    (ckBytes g = 0 ∨ ckCompute s.cfg (memRead s.buf (ckStart g) (s.hlen.toNat + s.plen.toNat - ckStart g)) g =
      ckReceived s.buf (s.hlen.toNat + s.plen.toNat) g) := by
  simp [frameChecks]

theorem completeFrame_accepts (h : frameChecks g s = true) : completeFrame g s = toSync (acceptFrame g s) := by
  rw [completeFrame, if_pos h]

theorem completeFrame_rejects (h : ¬ frameChecks g s = true) :
    completeFrame g s = toSync (raiseErr .checksum none s) := by
  rw [completeFrame, if_neg h]

end Completion

/-- Settles O34: R157 on the state with the byte stored and the lengths in their registers; at the last byte R158. -/
theorem genericPhaseAndCompletion : Obligations.GenericPhaseAndCompletion := by
  rintro s b g m H P hi hg hp hmid rfl (hlen : LengthsKnown g s _ H P)
  have hc : cfgWf s.cfg = true := hi.1
  have hinv := generic_of_stateInv hi hg
  have hin : s.cnt.toNat < 65536 := (generic_cnt_lt hc hg hp hinv).trans_le (capacity_bounds hc).2
  obtain ⟨hH, hP, hle⟩ := hlen.bounds hp hinv
  have hpush : exec (.push b) s = .next (reportDone (phaseStep g { takeByte b (clearPushFlags s) with
      hlen := BitVec.ofNat 16 H, plen := BitVec.ofNat 16 P })) := by
    rw [push_outside_sync b hc hg hp hmid, LengthsKnown.frameByte_eq (s := clearPushFlags s) b hin hlen]
  have hcnt : (takeByte b (clearPushFlags s)).cnt.toNat = s.cnt.toNat + 1 := takeByte_cnt_toNat b hin
  have hHnat : (BitVec.ofNat 16 H).toNat = H := by rw [BitVec.toNat_ofNat, Nat.mod_eq_of_lt hH]
  have hPnat : (BitVec.ofNat 16 P).toNat = P := by rw [BitVec.toNat_ofNat, Nat.mod_eq_of_lt hP]
  have hproto : protoId (protoOf g) = protoId s.cfg.proto := congrArg protoId (genericOf_step hg b).2
  refine ⟨fun hmore => ?_, fun hlast hck => ?_, fun hlast hpos hck => ?_⟩
  · rw [hpush, phaseStep_next (by dsimp only; rwa [hcnt, hHnat, hPnat]), reportDone_false rfl]
    simp only [hcnt, hHnat, hPnat]
    rfl
  · rw [hpush, phaseStep_complete (by dsimp only; rw [hcnt, hHnat, hPnat]; omega), completeFrame_accepts, reportDone_true rfl]
    · simp only [acceptFrame, hcnt, hHnat, hPnat, hproto]
      rfl
    · rw [frameChecks_iff]
      simp only [hHnat, hPnat]
      exact hck
  · rw [hpush, phaseStep_complete (by dsimp only; rw [hcnt, hHnat, hPnat]; omega), completeFrame_rejects, reportDone_false rfl]
    · rfl
    · rw [frameChecks_iff]
      simp only [hHnat, hPnat]
      exact not_or.2 ⟨hpos.ne', hck⟩

/-! ### The descriptors -/

/-- A byte of the buffer as a bit field (R10, R100). -/
theorem byteNat_eq_getU (m : Memory) (a : Nat) : byteNat m a = getU m (8 * a) 8 := (getU_byte m a).symm

/-- A bit field that goes on for a whole byte. -/
theorem getU_append_byte (m : Memory) {p w a : Nat} (h : p + w = 8 * a) :
    getU m p (w + 8) = getU m p w * 256 + byteNat m a := by
  rw [getU_add, h, ← byteNat_eq_getU]
  rfl

/-- The last `k` bits of a byte are its value below `2 ^ k`. -/
theorem getU_byte_suffix (m : Memory) (a : Nat) {j k : Nat} (h : j + k = 8) :
    getU m (8 * a + j) k = byteNat m a % 2 ^ k := by
  rw [byteNat_eq_getU, ← h, getU_add, Nat.mul_add_mod_self_right, Nat.mod_eq_of_lt (getU_lt ..)]

/-- Two bytes as one field. -/
theorem getU_two_bytes (m : Memory) (a : Nat) : getU m (8 * a) 16 = byteNat m a * 256 + byteNat m (a + 1) := by
  rw [getU_append_byte m (w := 8) (a := a + 1) (by omega), ← byteNat_eq_getU]

/-- Three bytes as one field. -/
theorem getU_three_bytes (m : Memory) (a : Nat) :
    getU m (8 * a) 24 = byteNat m a * 65536 + byteNat m (a + 1) * 256 + byteNat m (a + 2) := by
  rw [getU_append_byte m (w := 16) (a := a + 2) (by omega), getU_two_bytes]
  omega

/-- The RTCM v3 payload length: two bits of byte 1, then byte 2 (R162). -/
theorem getU_rtcm_length (m : Memory) : getU m 14 10 = byteNat m 1 % 4 * 256 + byteNat m 2 := by
  rw [getU_append_byte m (w := 2) (a := 2) (by omega), getU_byte_suffix m 1 (j := 6) (k := 2) (by omega)]
  rfl

/-- The RTCM v3 message id: byte 3, then four bits of byte 4 (R162). -/
theorem getU_rtcm_id (m : Memory) : getU m 24 12 = byteNat m 3 * 16 + byteNat m 4 / 16 := by
  rw [getU_add m 24 8 4, getU_byte m 3, getU_byte_prefix m 4 (w := 4) (by omega)]
  rfl

/-- Settles O36: the constants by definition, each read part as bytes of the buffer. -/
theorem descriptorsReadTheHeader : Obligations.DescriptorsReadTheHeader := by
  intro c m e
  refine ⟨⟨rfl, rfl, rfl, fun k hk => by rw [syncBytes, hk]; rfl⟩, ⟨rfl, rfl, rfl, rfl⟩, ⟨rfl, rfl, rfl⟩,
    ⟨rfl, rfl, rfl, rfl⟩, ⟨rfl, rfl, rfl⟩, fun _ => ⟨rfl, rfl, rfl⟩, ⟨rfl, rfl, rfl, rfl⟩, ?_, ?_, ?_, ?_, ?_, ?_, ?_, ?_,
    ?_, ?_, ?_, ?_⟩
  · rw [getU_rtcm_length]; rfl
  · rw [getU_rtcm_id]; rfl
  · rw [getU_three_bytes]; rfl
  · rw [getU_byte m 4, getU_byte m 5]; rfl
  · rw [getU_two_bytes m 2]; rfl
  · rw [getU_two_bytes]; rfl
  · rw [getU_byte]; rfl
  · rw [getU_byte, ← Nat.mul_succ, getU_byte]; rfl
  · rw [getU_byte, ← Nat.mul_succ, getU_byte]; rfl
  · rw [getU_byte, ← Nat.mul_succ, getU_byte, show 8 * e + 16 = 8 * (e + 2) by omega, getU_byte,
      show 8 * e + 24 = 8 * (e + 3) by omega, getU_byte]
    rfl
  · rw [getU_two_bytes m 1]; rfl
  · rw [getU_byte m 0]; rfl

end Sys2Proof.Machine
end

section
/-! Proofs for 42_framer.md, section 5: the text machine (R171 to R174). -/

namespace Sys2Proof.Machine

/-! ### Markers, and the byte that does not fit -/

/-- R171: a marker starts a sentence in every phase. -/
theorem textStep_marker {b : Byte} (s : State) (h : b = 0x24 ∨ b = 0x21) :
    textStep b s = { s with buf := Memory.set s.buf 0 b, cnt := 1, star := 0, phase := .tbody } := by
  have hmark : isMarker b = true := by obtain rfl | rfl := h <;> rfl
  exact if_pos ⟨hmark, .inr rfl⟩

/-- R172: a byte that does not fit. -/
theorem textByte_overflow {s : State} (b : Byte) (h : bufCapacity s.cfg ≤ s.cnt.toNat) :
    textByte b s = textToSync (raiseErr .size none s) := if_pos h

/-- R172: a byte that fits is stored, and R173 follows. -/
theorem textByte_stored {s : State} (b : Byte) (h : s.cnt.toNat < bufCapacity s.cfg) :
    textByte b s = textPhase b (takeByte b s) := if_neg h.not_ge

/-- Inside a sentence, a byte that is no marker and fits (R172, R173). -/
theorem push_text_stored {s : State} {b : Byte} (hc : cfgWf s.cfg = true) (hP : s.cfg.proto = .nmea)
    (h1 : b ≠ 0x24) (h2 : b ≠ 0x21) (hp : s.phase ≠ .sync) (hin : s.cnt.toNat < bufCapacity s.cfg) :
    exec (.push b) s = .next (reportDone (textPhase b (takeByte b (clearPushFlags s)))) := by
  rw [push_text_inside b hc hP h1 h2 hp, textByte_stored (s := clearPushFlags s) b hin]

theorem pidOf_nmea {s : State} (hP : s.cfg.proto = .nmea) : pidOf s = 3 := by
  rw [pidOf, hP]
  rfl

/-- Settles O41: markers and `SYNC` by R171, the rest by whether the byte fits (R172). -/
theorem textMarkersAndOverflow : Obligations.TextMarkersAndOverflow := by
  intro s b hc hP
  have hinside : s.phase ∈ [Phase.tbody, .tck, .tend] → s.phase ≠ .sync := by
    intro hmem hp
    simp [hp] at hmem
  refine ⟨fun hb => ?_, fun h1 h2 hp => push_text_skipped hc hP h1 h2 hp, fun h1 h2 hp hfull => ?_,
    fun h1 h2 hp hin => ⟨_, push_text_stored hc hP h1 h2 (hinside hp) hin, ?_⟩⟩
  · rw [push_text b hc hP, textStep_marker _ hb, reportDone_false rfl]
    rfl
  · rw [push_text_inside b hc hP h1 h2 (hinside hp), textByte_overflow (s := clearPushFlags s) b hfull, raiseErr,
      pidOf_nmea (s := clearPushFlags s) hP, reportDone_false rfl]
    rfl
  · rw [reportDone_buf, textPhase_buf, takeByte_buf]
    exact ⟨byteAt_set_same .., fun _ ha => byteAt_set_other _ _ ha⟩

/-! ### The steps of R173, with the byte stored -/

section Steps
variable {s : State} {b : Byte}

/-- The asterisk ends the body. -/
theorem textPhase_asterisk (hp : s.phase = .tbody) (hb : b = 0x2A) :
    textPhase b s = { s with star := s.cnt.setWidth 16 - 1, phase := .tck } := by
  simp only [textPhase, hp, if_pos hb]

/-- Another byte of the body. -/
theorem textPhase_body (hp : s.phase = .tbody) (hb : b ≠ 0x2A) : textPhase b s = s := by
  simp only [textPhase, hp, if_neg hb]

/-- A check character; the second is the last. -/
theorem textPhase_tck (hp : s.phase = .tck) :
    textPhase b s = { s with phase := if s.cnt.toNat = s.star.toNat + 3 then .tend else .tck } := by
  simp only [textPhase, hp]
  split_ifs
  · rfl
  · rw [← hp]

/-- A byte of the terminator. -/
theorem textPhase_tend (hp : s.phase = .tend) : textPhase b s = textEnd b s := by
  simp only [textPhase, hp]

/-- CR where it belongs. -/
theorem textEnd_cr (hcr : s.cnt.toNat = s.star.toNat + 4) (hb : b = 0x0D) : textEnd b s = s := by
  rw [textEnd, if_pos hcr, if_pos hb]

/-- LF where it belongs. -/
theorem textEnd_lf (hlf : s.cnt.toNat ≠ s.star.toNat + 4) (hb : b = 0x0A) : textEnd b s = completeText s := by
  rw [textEnd, if_neg hlf, if_pos hb]

/-- Any other terminator byte. -/
theorem textEnd_wrong (h : if s.cnt.toNat = s.star.toNat + 4 then b ≠ 0x0D else b ≠ 0x0A) :
    textEnd b s = textToSync s := by
  by_cases hcr : s.cnt.toNat = s.star.toNat + 4
  · rw [if_pos hcr] at h
    rw [textEnd, if_pos hcr, if_neg h]
  · rw [if_neg hcr] at h
    rw [textEnd, if_neg hcr, if_neg h]

/-- `STAR` is the index of the `*`, also where `CNT` becomes 65536 and its low 16 bits 0 (R173). -/
theorem star_toNat (h : s.cnt.toNat < 65536) : ((s.cnt + 1).setWidth 16 - 1 : BitVec 16).toNat = s.cnt.toNat := by
  rw [BitVec.toNat_sub, BitVec.toNat_setWidth, cnt_succ rfl h]
  simp
  omega

end Steps

/-- Settles O42: one lemma per step of R173, on the state with the byte stored. -/
theorem textPhaseSteps : Obligations.TextPhaseSteps := by
  rintro s b m hc hP h1 h2 hin rfl
  have hcap : s.cnt.toNat < 65536 := hin.trans_le (capacity_bounds hc).2
  have hcnt : (takeByte b (clearPushFlags s)).cnt.toNat = s.cnt.toNat + 1 := takeByte_cnt_toNat b hcap
  have hpush (hp : s.phase ≠ .sync) := push_text_stored hc hP h1 h2 hp hin
  refine ⟨fun hp hb => ⟨(s.cnt + 1).setWidth 16 - 1, star_toNat hcap, ?_⟩, fun hp hb => ?_, fun hp => ?_,
    fun hp hat hb => ?_, fun hp hwrong => ?_⟩
  all_goals rw [hpush (by simp [hp])]
  · rw [textPhase_asterisk (by exact hp) hb, reportDone_false rfl]
    rfl
  · rw [textPhase_body (by exact hp) hb, reportDone_false rfl]
    rfl
  · rw [textPhase_tck (by exact hp), reportDone_false rfl, hcnt]
    rfl
  · rw [textPhase_tend (by exact hp), textEnd_cr (by rw [hcnt]; exact hat) hb, reportDone_false rfl]
    rfl
  · rw [textPhase_tend (by exact hp), textEnd_wrong (by rw [hcnt]; exact hwrong), reportDone_false rfl]
    rfl

/-! ### Completion -/

/-- A region of the buffer cut short is the shorter region. -/
theorem take_memRead (m : Memory) (a : Nat) {n k : Nat} (h : k ≤ n) : (memRead m a n).take k = memRead m a k := by
  rw [memRead, memRead, ← List.map_take, List.take_range, Nat.min_eq_left h]

/-- Before the first element that meets a test no element meets it, and that one does. -/
theorem getD_findIdx {p : Byte → Bool} (l : List Byte) (d : Byte) :
    (∀ j < l.findIdx p, p (l.getD j d) = false) ∧ (l.findIdx p < l.length → p (l.getD (l.findIdx p) d) = true) := by
  refine ⟨fun j hj => ?_, fun h => ?_⟩
  · rw [List.getD_eq_getElem _ _ (hj.trans_le List.findIdx_le_length)]
    exact List.not_of_lt_findIdx hj
  · rw [List.getD_eq_getElem _ _ h]
    exact List.findIdx_getElem

theorem completeText_accepts {s : State} (h : textChecks s = true) : completeText s = textToSync (acceptText s) := by
  rw [completeText, if_pos h]

theorem completeText_rejects {s : State} (h : ¬ textChecks s = true) :
    completeText s = textToSync (raiseErr .checksum none s) := by
  rw [completeText, if_neg h]

/-- Settles O43: LF completes the sentence, by the rendered check of R174; the id ends at the first comma. -/
theorem textCompletion : Obligations.TextCompletion := by
  rintro s m body hc hP hp hstar hat hin rfl rfl
  have hcnt : (takeByte 0x0A (clearPushFlags s)).cnt.toNat = s.cnt.toNat + 1 :=
    takeByte_cnt_toNat 0x0A (hin.trans_le (capacity_bounds hc).2)
  have hpush : exec (.push 0x0A) s = .next (reportDone (completeText (takeByte 0x0A (clearPushFlags s)))) := by
    rw [push_text_stored hc hP (by decide) (by decide) (by simp [hp]) hin, textPhase_tend (by exact hp),
      textEnd_lf (by rw [hcnt, hat]; show s.star.toNat + 5 ≠ s.star.toNat + 4; omega) rfl]
  refine ⟨fun hck => ?_, fun hck => ?_⟩
  · obtain ⟨hbefore, hcomma⟩ := getD_findIdx (p := (· == 0x2C))
      (memRead (Memory.set s.buf s.cnt.toNat 0x0A) 1 (s.star.toNat - 1)) 0
    refine ⟨_, List.findIdx_le_length, fun j hj => by simpa using hbefore j hj, fun h => by simpa using hcomma h, ?_⟩
    rw [hpush, completeText_accepts (by simpa [textChecks, textBody] using hck), reportDone_true rfl]
    rw [take_memRead _ _ (List.findIdx_le_length.trans_eq (by simp [memRead])), acceptText, hcnt]
    rfl
  · rw [hpush, completeText_rejects (by simpa [textChecks, textBody] using hck), raiseErr,
      pidOf_nmea (s := takeByte 0x0A (clearPushFlags s)) hP, reportDone_false rfl]
    rfl

end Sys2Proof.Machine
end

section
/-! Proofs for 42_framer.md, section 6: the legacy machine (R176 to R180). -/

namespace Sys2Proof.Machine

/-! ### The byte filter -/

/-- A legacy instance runs the legacy step. -/
theorem push_legacy {s : State} (b : Byte) (hc : cfgWf s.cfg = true) (hP : s.cfg.proto = .legacy) :
    exec (.push b) s = .next (reportDone (legacyStep b (clearPushFlags s))) := by
  rw [push_runs b hc, framerStep, clearPushFlags_cfg, hP]

/-- The six low bits, written out (R177). -/
theorem lowBits_eq (b : Byte) :
    lowBits b = [b.getLsbD 0, b.getLsbD 1, b.getLsbD 2, b.getLsbD 3, b.getLsbD 4, b.getLsbD 5] := rfl

/-- Settles O44: the two branches of R176; the six bits of R177 in their order. -/
theorem legacyByteFilterAndFeed : Obligations.LegacyByteFilterAndFeed := by
  intro s b hc hP
  refine ⟨fun hout => ?_, fun hin => ?_⟩
  · rw [push_legacy b hc hP, legacyStep, if_neg (by exact hout), reportDone_false rfl]
    rfl
  · rw [push_legacy b hc hP, legacyStep, if_pos (by exact hin), lowBits_eq, clearPushFlags]
    simp only [List.foldl_cons, List.foldl_nil]

/-! ### One bit, rule by rule -/

/-- The bit is shifted into `WORD` (R177). -/
theorem shiftIn_eq {w W : Word} {v : Bool} (h : W.toNat = (w.toNat * 2 + v.toNat) % 2 ^ 32) :
    (w <<< 1) + (BitVec.ofBool v).setWidth 32 = W := by
  have hbit : ((BitVec.ofBool v).setWidth 32).toNat = v.toNat := by cases v <;> rfl
  apply BitVec.eq_of_toNat_eq
  rw [BitVec.toNat_add, BitVec.toNat_shiftLeft, hbit, h, Nat.shiftLeft_eq, Nat.mod_add_mod, pow_one]

section Rules
variable {s : State}

/-- In `SYNC` the shifted word is searched for the preamble (R178). -/
theorem legacyBit_sync {v : Bool} {W : Word} (h : W.toNat = (s.word.toNat * 2 + v.toNat) % 2 ^ 32)
    (hp : s.phase = .sync) : legacyBit s v = legacySearch { s with word := W } := by
  simp only [legacyBit, shiftIn_eq h, if_pos hp]

/-- In `LDATA` the bit is counted (R179). -/
theorem legacyBit_ldata {v : Bool} {W : Word} (h : W.toNat = (s.word.toNat * 2 + v.toNat) % 2 ^ 32)
    (hp : s.phase = .ldata) : legacyBit s v = legacyCollect { s with word := W } := by
  simp only [legacyBit, shiftIn_eq h, hp, reduceCtorEq, if_false]

theorem legacyPreamble_iff (c : Cfg) (w : Word) : legacyPreamble c w = true ↔
    (if w.getLsbD 30 then w.extractLsb' 22 8 ^^^ 0xFF else w.extractLsb' 22 8) = c.legPreamble := beq_iff_eq

/-- R178: the preamble with good parity starts a frame. -/
theorem legacySearch_found (hpre : legacyPreamble s.cfg s.word = true) (hok : hamok s.cfg s.word = true) :
    legacySearch s = { s with buf := memWrite s.buf 0 (hamBytes s.word), cnt := 3, nbit := 0, phase := .ldata } :=
  if_pos ⟨hpre, hok⟩

/-- R178: the search goes on. -/
theorem legacySearch_missed (h : ¬ (legacyPreamble s.cfg s.word = true ∧ hamok s.cfg s.word = true)) :
    legacySearch s = s := if_neg h

/-- R179 before the thirtieth bit. -/
theorem legacyCollect_bit (h : s.nbit.toNat + 1 < 30) : legacyCollect s = { s with nbit := s.nbit + 1 } := if_pos h

/-- R179 at the thirtieth bit. -/
theorem legacyCollect_last (h : s.nbit = 29) : legacyCollect s = legacyWord { s with nbit := 0 } :=
  if_neg (by rw [h]; decide)

/-- R179: a word that fails parity. -/
theorem legacyWord_bad (h : hamok s.cfg s.word = false) :
    legacyWord s = legacyToSync (raiseErr .checksum (some (legacyId s)) s) := by
  simp only [legacyWord, h, Bool.false_eq_true, if_false]

/-- R179: a good word. -/
theorem legacyWord_good (h : hamok s.cfg s.word = true) :
    legacyWord s = legacyLength { s with buf := memWrite s.buf s.cnt.toNat (hamBytes s.word), cnt := s.cnt + 3 } :=
  if_pos h

/-- The state at the second word, with the lengths it declares (R180). -/
def withLegacyLengths (s : State) : State :=
  { s with hlen := 6, plen := BitVec.ofNat 16 ((Memory.byteAt s.buf 5).toNat / 8 * 3) }

/-- The declared length fits its register. -/
theorem withLegacyLengths_plen (s : State) : (withLegacyLengths s).plen.toNat = (Memory.byteAt s.buf 5).toNat / 8 * 3 := by
  have hbyte := (Memory.byteAt s.buf 5).isLt
  exact (BitVec.toNat_ofNat ..).trans (Nat.mod_eq_of_lt (by omega))

/-- No further words are declared (R180). -/
theorem withLegacyLengths_zero (h : (Memory.byteAt s.buf 5).toNat / 8 * 3 = 0) :
    withLegacyLengths s = { s with hlen := 6, plen := 0 } := by
  rw [withLegacyLengths, h]
  rfl

/-- R180 at the second word: the frame does not fit. -/
theorem legacyLength_oversize (h6 : s.cnt.toNat = 6) (hbig : bufCapacity s.cfg < 6 + (Memory.byteAt s.buf 5).toNat / 8 * 3) :
    legacyLength s = legacyToSync (raiseErr .size (some (legacyId s)) (withLegacyLengths s)) := by
  rw [legacyLength, if_pos h6]
  exact if_pos hbig

/-- R180 at the second word: the frame fits. -/
theorem legacyLength_fits (h6 : s.cnt.toNat = 6) (hfit : 6 + (Memory.byteAt s.buf 5).toNat / 8 * 3 ≤ bufCapacity s.cfg) :
    legacyLength s = legacyComplete (withLegacyLengths s) := by
  rw [legacyLength, if_pos h6]
  exact if_neg hfit.not_gt

theorem legacyId_eq (s : State) : legacyId s = BitVec.ofNat 32 ((Memory.byteAt s.buf 1).toNat / 4) := rfl

/-- R180 after another word than the second. -/
theorem legacyLength_later (h : s.cnt.toNat ≠ 6) : legacyLength s = legacyComplete s := if_neg h

/-- R180: words are still to come. -/
theorem legacyComplete_more (h : s.cnt.toNat < s.hlen.toNat + s.plen.toNat) : legacyComplete s = s := if_pos h

/-- R180: the last word. -/
theorem legacyComplete_last (h : s.hlen.toNat + s.plen.toNat ≤ s.cnt.toNat) : legacyComplete s = acceptLegacy s :=
  if_neg h.not_gt

end Rules

/-! ### What one bit does -/

/-- The state with a good word taken: `m` is the buffer with its three bytes stored, the bit count starts again (R179). -/
def withLegacyWord (W : Word) (m : Memory) (s : State) : State :=
  { s with word := W, nbit := 0, buf := m, cnt := s.cnt + 3 }

@[simp] theorem withLegacyWord_cnt (W : Word) (m : Memory) (s : State) : (withLegacyWord W m s).cnt = s.cnt + 3 := rfl

/-- `CNT + 3` does not wrap below its width. -/
theorem cnt_add_three {c : BitVec 17} (h : c.toNat + 3 < 2 ^ 17) : (c + 3).toNat = c.toNat + 3 := by
  rw [BitVec.toNat_add]
  exact Nat.mod_eq_of_lt h

section Bit
variable {s : State} {v : Bool} {W : Word}

/-- The thirtieth bit of a good word: the word is stored, and R180 follows. -/
theorem legacyBit_good_word (h : W.toNat = (s.word.toNat * 2 + v.toNat) % 2 ^ 32) (hp : s.phase = .ldata)
    (h29 : s.nbit = 29) (hok : hamok s.cfg W = true) :
    legacyBit s v = legacyLength (withLegacyWord W (memWrite s.buf s.cnt.toNat (hamBytes W)) s) := by
  rw [legacyBit_ldata h hp, legacyCollect_last (by exact h29), legacyWord_good (by exact hok), withLegacyWord]

/-- The thirtieth bit of a bad word (R179). -/
theorem legacyBit_bad_word (h : W.toNat = (s.word.toNat * 2 + v.toNat) % 2 ^ 32) (hp : s.phase = .ldata)
    (h29 : s.nbit = 29) (hok : hamok s.cfg W = false) :
    legacyBit s v = { s with
      word := W &&& 3, nbit := 0, phase := .sync, cnt := 0, lastErr := some .checksum
      events := s.events ++ [.err .checksum (protoId s.cfg.proto)
        (some (BitVec.ofNat 32 ((Memory.byteAt s.buf 1).toNat / 4)))] } := by
  rw [legacyBit_ldata h hp, legacyCollect_last (by exact h29), legacyWord_bad (by exact hok), legacyId_eq]
  dsimp only [legacyToSync, raiseErr, emit, pidOf]

end Bit

/-- Settles O45: in `SYNC` by R178; in `LDATA` by the bit count and the parity of R179; a stored word by R180. -/
theorem legacyBitRules : Obligations.LegacyBitRules := by
  intro s v W hW
  refine ⟨fun hp hpre hok => ?_, fun hp hmiss => ?_, fun hp hbits => ?_,
    fun hp h29 hok => legacyBit_bad_word hW hp h29 hok, ?_⟩
  · rw [legacyBit_sync hW hp, legacySearch_found (by exact (legacyPreamble_iff _ _).2 hpre) (by exact hok)]
  · rw [legacyBit_sync hW hp, legacySearch_missed]
    rintro ⟨hpre, hok⟩
    obtain hne | hbad := hmiss
    · exact hne ((legacyPreamble_iff _ _).1 hpre)
    · exact absurd (hok.symm.trans hbad) (by decide)
  · rw [legacyBit_ldata hW hp, legacyCollect_bit]
    show s.nbit.toNat + 1 < 30
    omega
  rintro hp h29 hok m pl rfl rfl
  rw [legacyBit_good_word hW hp h29 hok]
  generalize memWrite s.buf s.cnt.toNat (hamBytes W) = m
  have hsecond (h3 : s.cnt = 3) : (withLegacyWord W m s).cnt.toNat = 6 := by rw [withLegacyWord_cnt, h3]; rfl
  have hplen := withLegacyLengths_plen (withLegacyWord W m s)
  refine ⟨fun h3 hbig => ?_, fun h3 hfit hpos => ?_, fun h3 hfit hzero => ?_, fun h6 hmore => ?_, fun h6 hwrap hlast => ?_⟩
  · rw [legacyLength_oversize (hsecond h3) hbig, legacyId_eq, withLegacyLengths, withLegacyWord]
    dsimp only [legacyToSync, raiseErr, emit, pidOf]
  · rw [legacyLength_fits (hsecond h3) hfit, legacyComplete_more, withLegacyLengths, withLegacyWord, h3]
    · rfl
    · rw [hplen]
      exact (hsecond h3).trans_lt (Nat.lt_add_of_pos_right hpos)
  · rw [legacyLength_fits (hsecond h3) (by exact hzero.symm ▸ hfit), withLegacyLengths_zero (by exact hzero),
      legacyComplete_last (by exact (hsecond h3).ge), acceptLegacy]
    simp only [withLegacyWord_cnt, legacyId_eq, h3]
    rfl
  · have hcnt : (withLegacyWord W m s).cnt.toNat = s.cnt.toNat + 3 := cnt_add_three (by omega)
    rw [legacyLength_later (by omega), legacyComplete_more (hcnt.trans_lt hmore), withLegacyWord]
  · have hcnt : (withLegacyWord W m s).cnt.toNat = s.cnt.toNat + 3 := cnt_add_three hwrap
    rw [legacyLength_later (by omega), legacyComplete_last (by rw [hcnt]; exact hlast), acceptLegacy, legacyId_eq, hcnt]
    rfl

end Sys2Proof.Machine
end

section
/-! Proofs for 43_msm.md, R200 to R229: which `MSMDEC` fails and which decodes, and what the file of a record that
decodes holds: its header, its satellites, its cells, the fields of its body and the sums made of them. -/

namespace Sys2Proof.Machine

/-! ### `MSMDEC` on operands in range (R76, R200) -/

theorem exists_gnssOf {sys : BitVec 4} (h : sys.toNat ≤ 5) : ∃ g, gnssOf sys = some g := by
  have hsome : ∀ v : BitVec 4, v.toNat ≤ 5 → (gnssOf v).isSome = true := by decide
  exact Option.isSome_iff_exists.1 (hsome sys h)

theorem gnssCode_gnssOf {sys : BitVec 4} {g : GnssSys} (h : gnssOf sys = some g) : gnssCode g = sys := by
  revert sys
  cases g <;> decide

/-- Operands in range run the record at `P`. -/
theorem msmdec_runs {s : State} {sys : BitVec 4} {g : GnssSys} (x : BitVec 1) {p l : Word} (hg : gnssOf sys = some g)
    (hin : p.toNat + l.toNat ≤ bufCapacity s.cfg) :
    exec (.msmdec sys 0 x p l) s = .next (msmRun g (variantOf x) p.toNat l.toNat s) := by
  have hspan : spanInBuf s p.toNat l.toNat = true := by simpa [spanInBuf] using hin
  simp [exec, execMsmdec, hg, hspan]

theorem msmRun_fails {s : State} {g : GnssSys} {x : Variant} {p l : Nat} {k : ErrKind}
    (h : msmDefect s.cfg.msm s.buf x p l = some k) : msmRun g x p l s = msmFail k (msmErrId s.buf p l) s := by
  rw [msmRun, h]

theorem mask_le_needBits (c : MsmCfg) (m : Memory) (x : Variant) (p : Nat) :
    hdrBits c + nSat c m p * nSig c m p ≤ needBits c m x p := by
  unfold needBits recordBits
  omega

/-- No step of R200 fails: the record has at most 64 cell-mask bits, and `L` is `need` in whole bytes. -/
theorem msmDefect_eq_none {c : MsmCfg} {m : Memory} {x : Variant} {p l : Nat} (hn : nSat c m p * nSig c m p ≤ 64)
    (hneed : needBits c m x p ≤ 8 * l) (hlen : (needBits c m x p + 7) / 8 = l) : msmDefect c m x p l = none := by
  have hmask := mask_le_needBits c m x p
  rw [msmDefect, if_neg (by omega), if_neg (by omega), if_neg (by omega), if_neg (by omega),
    if_neg (not_not.2 (by exact hlen))]

/-- Settles O46: each of the five cases is the first test of R200 that answers. -/
theorem msmdecFailures : Obligations.MsmdecFailures := by
  rintro s sys x p l k n need hsys hin rfl hneed hfail
  obtain ⟨g, hg⟩ := exists_gnssOf hsys
  have hdefect : msmDefect s.cfg.msm s.buf (variantOf x) p.toNat l.toNat = some k := by
    replace hneed : need = needBits s.cfg.msm s.buf (variantOf x) p.toNat := hneed
    have hmask := mask_le_needBits s.cfg.msm s.buf (variantOf x) p.toNat
    rw [← hneed] at hmask
    rw [msmDefect, ← hneed]
    obtain ⟨hhdr, rfl⟩ | ⟨hhdr, hcells, rfl⟩ | ⟨hhdr, hcells, hbits, rfl⟩ | ⟨hhdr, hcells, hbits, hbody, rfl⟩ |
      ⟨hcells, hbody, hlen, rfl⟩ := hfail
    · rw [if_pos hhdr]
    · rw [if_neg (by omega), if_pos hcells]
    · rw [if_neg (by omega), if_neg (by omega), if_pos hbits]
    · rw [if_neg (by omega), if_neg (by omega), if_neg (by omega), if_pos hbody]
    · rw [if_neg (by omega), if_neg (by omega), if_neg (by omega), if_neg (by omega), if_pos (by exact hlen)]
  exact ⟨_, _, by rw [msmdec_runs x hg hin, msmRun_fails hdefect]; rfl⟩

/-- Settles O47: with no failing step the operands name a record that decodes. -/
theorem msmdecSuccess : Obligations.MsmdecSuccess := by
  rintro s sys x p l n need hsys hin rfl rfl hcells hneed hlen
  obtain ⟨g, hg⟩ := exists_gnssOf hsys
  have hdefect := msmDefect_eq_none (x := variantOf x) hcells hneed hlen
  obtain ⟨-, -, -, -, hsats, hcells⟩ := msmFile_counts _ _ g _ _ _ hdefect
  exact ⟨_, msmdec_of_decodes ⟨hg, rfl, hin, hdefect⟩, rfl, gnssCode_gnssOf hg, rfl, hsats, hcells⟩

/-! ### Fields in their registers (R33) -/

theorem ofNat_getU_toNat (m : Memory) (p : Nat) {w n : Nat} (h : w ≤ n) :
    (BitVec.ofNat n (getU m p w)).toNat = getU m p w := by
  rw [BitVec.toNat_ofNat, Nat.mod_eq_of_lt ((getU_lt m p w).trans_le (Nat.pow_le_pow_right two_pos h))]

theorem ofInt_getS_toInt (m : Memory) (p : Nat) {w n : Nat} (hw : 1 ≤ w) (h : w ≤ n) :
    (BitVec.ofInt n (getS m p w)).toInt = getS m p w := by
  obtain ⟨lo, hi⟩ := getS_range_of_pos m p hw
  have hpow : (2 : Int) ^ (w - 1) ≤ 2 ^ (n - 1) := pow_le_pow_right₀ one_le_two (by omega)
  rw [BitVec.toInt_ofInt]
  exact (bmod_two_pow_eq_self_iff _ (hw.trans h)).2 ⟨by omega, by omega⟩

/-! ### The record that decodes -/

/-- `MSMDEC` on a record that decodes leaves its file, and the counts fit their registers (R200 step 10, R34). -/
theorem msmdec_file {s : State} {sys : BitVec 4} {z : BitVec 3} {x : BitVec 1} {p l : Word} {g : GnssSys}
    (h : MsmDecodes s sys z x p l g) : ∃ t, exec (.msmdec sys z x p l) s = .next t ∧
      t.msm = msmFileOf s.cfg.msm s.buf g (variantOf x) p.toNat ∧
      t.msm.hdr.nsat.toNat = nSat s.cfg.msm s.buf p.toNat ∧ t.msm.hdr.nsig.toNat = nSig s.cfg.msm s.buf p.toNat ∧
      t.msm.hdr.ncell.toNat = nCell s.cfg.msm s.buf p.toNat ∧
      nSat s.cfg.msm s.buf p.toNat * nSig s.cfg.msm s.buf p.toNat ≤ 64 := by
  have hrun := msmdec_of_decodes h
  obtain ⟨-, -, -, hdefect⟩ := h
  obtain ⟨hnsat, hnsig, hncell, hle, -⟩ := msmFile_counts _ _ g _ _ _ hdefect
  exact ⟨_, hrun, rfl, hnsat, hnsig, hncell, hle⟩

/-! ### The header (R205, R206) -/

/-- The two reads of the satellite mask are one field of 64 bits (R205). -/
theorem satMaskAt_toNat (c : MsmCfg) (m : Memory) (p : Nat) :
    (satMaskAt c m p).toNat = getU m (8 * p + qSatmask c) 64 := by
  rw [satMaskAt, fieldU, fieldU, ← Nat.add_assoc, ← getU_add m _ 32 32, ofNat_getU_toNat m _ le_rfl]

/-- Settles O48: each field fits its register, so that no bit of it is cut off. -/
theorem msmHeaderFields : Obligations.MsmHeaderFields := by
  rintro s sys z x p l g q hc h rfl
  obtain ⟨t, ht, hfile, hnsat, hnsig, hncell, -⟩ := msmdec_file h
  refine ⟨t, ht, ?_⟩
  rw [hnsat, hnsig, hncell, hfile, hc]
  generalize s.buf = m
  generalize p.toNat = p
  have field (a : Nat) {w n : Nat} (h : w ≤ n) := ofNat_getU_toNat m a h
  refine ⟨field _ le_rfl, field _ le_rfl, ?_, ?_, ?_, field _ le_rfl, field _ le_rfl, field _ le_rfl, field _ le_rfl,
    field _ le_rfl, field _ le_rfl, field _ le_rfl, satMaskAt_toNat _ m p, field _ le_rfl, rfl, rfl, rfl⟩
  · rintro rfl
    exact ⟨field _ le_rfl, field _ (by decide)⟩
  · rintro rfl
    have hlt := getU_lt m (8 * p + 24) 30
    refine ⟨rfl, ?_⟩
    show (BitVec.ofNat 31 (getU m (8 * p + 24) 30 + 14000)).toNat = getU m (8 * p + 24) 30 + 14000
    rw [BitVec.toNat_ofNat, Nat.mod_eq_of_lt (by omega)]
  · intro hglo hbds
    cases g
    case glo => contradiction
    case bds => contradiction
    all_goals exact ⟨rfl, field _ (by decide)⟩

/-! ### The ids (R208) -/

/-- Position `j` from the left is bit `n - j`. -/
theorem map_succ_setPositions {n : Nat} (v : BitVec n) :
    (setPositions v).map (· + 1) = (List.range' 1 n).filter fun j => v.getLsbD (n - j) := by
  have hbit : ∀ k ∈ List.range n, v.getMsbD k = v.getLsbD (n - (1 + k)) := by
    intro k hk
    simp [BitVec.getMsbD, List.mem_range.1 hk, Nat.sub_sub]
  rw [List.range'_eq_map_range, List.filter_map, setPositions, List.filter_congr hbit]
  simp only [Function.comp_def, Nat.add_comm 1]

theorem mem_ids {n : Nat} (v : BitVec n) (j : Nat) :
    j ∈ (setPositions v).map (· + 1) ↔ 1 ≤ j ∧ j ≤ n ∧ v.getLsbD (n - j) = true := by
  rw [map_succ_setPositions, List.mem_filter, List.mem_range'_1, Nat.lt_one_add_iff, and_assoc]

theorem ids_sorted {n : Nat} (v : BitVec n) : ((setPositions v).map (· + 1)).Pairwise (· < ·) :=
  (setPositions_sorted v).map _ fun _ _ => Nat.succ_lt_succ

/-- The satellite ids in the file are the positions of the mask. -/
theorem satEntries_ids (c : MsmCfg) (m : Memory) (g : GnssSys) (x : Variant) (p : Nat) :
    (satEntries c m g x p).map (fun e => e.id.toNat) = satIds c m p := by
  have hid : ∀ i ∈ List.range (nSat c m p), (satEntryAt c m g x p i).id.toNat = (satIds c m p).getD i 0 := by
    intro i hi
    rw [List.mem_range, ← satIds_length] at hi
    obtain ⟨-, hle⟩ := satIds_bounds c m p _ (getD_mem_of_lt _ i hi)
    rw [satEntryAt, BitVec.toNat_ofNat, Nat.mod_eq_of_lt (by omega)]
  rw [satEntries, List.map_map]
  exact (List.map_congr_left hid).trans (by rw [← satIds_length, map_range_getD])

theorem satEntries_getElem? {c : MsmCfg} {m : Memory} {p i : Nat} (g : GnssSys) (x : Variant) (h : i < nSat c m p) :
    (satEntries c m g x p)[i]? = some (satEntryAt c m g x p i) := by
  simp [satEntries, h]

/-- Settles O49: the ids by `satEntries_ids`, the PRN by the definition of an entry. -/
theorem msmSatellitesFollowTheMask : Obligations.MsmSatellitesFollowTheMask := by
  intro s sys z x p l g h
  obtain ⟨t, ht, hfile, -⟩ := msmdec_file h
  refine ⟨t, ht, ?_⟩
  rw [hfile, msmFileOf, satEntries_ids]
  refine ⟨ids_sorted _, mem_ids _, fun e he => ?_⟩
  obtain ⟨i, -, rfl⟩ := List.mem_map.1 he
  rfl

/-! ### The cells (R210, R218) -/

section Cells

variable {c : MsmCfg} {m : Memory} {p : Nat}

theorem cellMaskAt_getLsbD (hn : nSat c m p * nSig c m p ≤ 64) {q : Nat} (hq : q < nSat c m p * nSig c m p) :
    (cellMaskAt c m p).getLsbD (63 - q) = bitAt m (8 * p + hdrBits c + q) := by
  have h := cellMaskAt_bit c m p q hn (hq.trans_le hn)
  rw [BitVec.getMsbD_eq_getLsbD] at h
  simpa [hq, hq.trans_le hn] using h

/-- The marked indexes lie below `NSAT * NSIG`, and mask bit 63 is index 0. -/
theorem mem_cellIndexes (hn : nSat c m p * nSig c m p ≤ 64) (q : Nat) :
    q ∈ setPositions (cellMaskAt c m p) ↔ q < nSat c m p * nSig c m p ∧ (cellMaskAt c m p).getLsbD (63 - q) = true := by
  rw [mem_setPositions]
  constructor
  · rintro ⟨h64, hset⟩
    rw [cellMaskAt_bit c m p q hn h64, Bool.and_eq_true, decide_eq_true_eq] at hset
    obtain ⟨hq, hbit⟩ := hset
    exact ⟨hq, by rw [cellMaskAt_getLsbD hn hq, hbit]⟩
  · rintro ⟨hq, hbit⟩
    rw [cellMaskAt_getLsbD hn hq] at hbit
    have h64 := hq.trans_le hn
    exact ⟨h64, by rw [cellMaskAt_bit c m p q hn h64, hbit, decide_eq_true hq, Bool.and_true]⟩

/-- The `k`-th mask index, as satellite and signal of the record. -/
theorem cellIndex_pair (hn : nSat c m p * nSig c m p ≤ 64) {k : Nat} (hk : k < nCell c m p) :
    cellIndex c m p k / nSig c m p < nSat c m p ∧ cellIndex c m p k % nSig c m p < nSig c m p := by
  obtain ⟨hsat, hsig, -⟩ := div_mod_of_lt_mul (cellIndex_marked c m p k hn hk).1
  exact ⟨hsat, hsig⟩

variable {g : GnssSys} {x : Variant} {k : Nat}

/-- The three numbers of a cell fit their registers (R33). -/
theorem cellEntryAt_sat (hn : nSat c m p * nSig c m p ≤ 64) (hk : k < nCell c m p) :
    (cellEntryAt c m g x p k).sat.toNat = cellIndex c m p k / nSig c m p := by
  have hsat : nSat c m p ≤ 64 := popcount_le _
  rw [cellEntryAt, cellEntryOf, BitVec.toNat_ofNat, Nat.mod_eq_of_lt]
  exact (cellIndex_pair hn hk).1.trans_le hsat

theorem cellEntryAt_sig (hn : nSat c m p * nSig c m p ≤ 64) (hk : k < nCell c m p) :
    (cellEntryAt c m g x p k).sig.toNat = cellIndex c m p k % nSig c m p := by
  have hsig : nSig c m p ≤ 32 := popcount_le _
  rw [cellEntryAt, cellEntryOf, BitVec.toNat_ofNat, Nat.mod_eq_of_lt]
  exact (cellIndex_pair hn hk).2.trans_le hsig

theorem sigIds_length (c : MsmCfg) (m : Memory) (p : Nat) : (sigIds c m p).length = nSig c m p := by
  rw [sigIds, nSig, popcount, List.length_map]

theorem cellEntryAt_sigid (hn : nSat c m p * nSig c m p ≤ 64) (hk : k < nCell c m p) :
    (sigIds c m p)[(cellEntryAt c m g x p k).sig.toNat]? = some (cellEntryAt c m g x p k).sigid.toNat := by
  have hsig : cellIndex c m p k % nSig c m p < (sigIds c m p).length :=
    (cellIndex_pair hn hk).2.trans_eq (sigIds_length c m p).symm
  obtain ⟨-, h32, -⟩ := (mem_ids _ _).1 (getD_mem_of_lt (sigIds c m p) _ hsig)
  have hid : (cellEntryAt c m g x p k).sigid.toNat = (sigIds c m p).getD (cellIndex c m p k % nSig c m p) 0 := by
    rw [cellEntryAt, cellEntryOf, BitVec.toNat_ofNat, Nat.mod_eq_of_lt (by omega)]
  rw [cellEntryAt_sig hn hk, hid, List.getD_eq_getElem?_getD, List.getElem?_eq_getElem hsig, Option.getD_some]

/-- What is read off each cell is what its mask index gives, in the order of the mask. -/
theorem cellEntries_map {α : Type} (f : CellEntry → α) (f' : Nat → α)
    (hf : ∀ k < nCell c m p, f (cellEntryAt c m g x p k) = f' (cellIndex c m p k)) :
    (cellEntries c m g x p).map f = (setPositions (cellMaskAt c m p)).map f' := by
  rw [cellEntries, ← cellIndexes_eq, List.map_map, List.map_map]
  exact List.map_congr_left fun k hk => hf k (List.mem_range.1 hk)

/-- `C_SAT * NSIG + C_SIG` is the mask index (R218). -/
theorem cellEntries_indexes (g : GnssSys) (x : Variant) (hn : nSat c m p * nSig c m p ≤ 64) :
    (cellEntries c m g x p).map (fun e => e.sat.toNat * nSig c m p + e.sig.toNat) = setPositions (cellMaskAt c m p) := by
  rw [cellEntries_map _ id, List.map_id]
  intro k hk
  rw [cellEntryAt_sat hn hk, cellEntryAt_sig hn hk, Nat.div_add_mod', id]

/-- A pair in range has its index in range. -/
theorem mul_add_lt_mul {n k i j : Nat} (hi : i < n) (hj : j < k) : i * k + j < n * k :=
  calc i * k + j < (i + 1) * k := by rw [Nat.succ_mul]; omega
    _ ≤ n * k := Nat.mul_le_mul_right k hi

/-- The cells are the marked pairs, and no others (R218). -/
theorem mem_cellPairs (g : GnssSys) (x : Variant) (hn : nSat c m p * nSig c m p ≤ 64) (i j : Nat) :
    (i, j) ∈ (cellEntries c m g x p).map (fun e => (e.sat.toNat, e.sig.toNat)) ↔
      i < nSat c m p ∧ j < nSig c m p ∧ (cellMaskAt c m p).getLsbD (63 - (i * nSig c m p + j)) = true := by
  rw [cellEntries_map _ (fun q => (q / nSig c m p, q % nSig c m p))
    fun k hk => Prod.ext (cellEntryAt_sat (g := g) (x := x) hn hk) (cellEntryAt_sig (g := g) (x := x) hn hk),
    List.mem_map]
  constructor
  · rintro ⟨q, hq, heq⟩
    obtain ⟨hlt, hbit⟩ := (mem_cellIndexes hn q).1 hq
    obtain ⟨hi, hj, hsum⟩ := div_mod_of_lt_mul hlt
    obtain ⟨rfl, rfl⟩ := Prod.mk.inj heq
    exact ⟨hi, hj, by rw [hsum, hbit]⟩
  · rintro ⟨hi, hj, hbit⟩
    have hdiv : (i * nSig c m p + j) / nSig c m p = i := Nat.div_eq_of_lt_le (by omega) (by rw [Nat.succ_mul]; omega)
    have hmod : (i * nSig c m p + j) % nSig c m p = j := by rw [Nat.mul_comm, Nat.mul_add_mod, Nat.mod_eq_of_lt hj]
    exact ⟨_, (mem_cellIndexes hn _).2 ⟨mul_add_lt_mul hi hj, hbit⟩, Prod.ext hdiv hmod⟩

theorem mem_cellEntries {e : CellEntry} (h : e ∈ cellEntries c m g x p) :
    ∃ k < nCell c m p, e = cellEntryAt c m g x p k := by
  obtain ⟨k, hk, rfl⟩ := List.mem_map.1 h
  exact ⟨k, List.mem_range.1 hk, rfl⟩

end Cells

/-- Settles O50: the cells are the marked indexes as pairs, and a signal id is an entry of `SIGID`. -/
theorem msmCellsFollowTheCellMask : Obligations.MsmCellsFollowTheCellMask := by
  intro s sys z x p l g h
  obtain ⟨t, ht, hfile, hnsat, hnsig, -, hn⟩ := msmdec_file h
  refine ⟨t, ht, ?_⟩
  rw [hnsat, hnsig, hfile, msmFileOf, msmHeaderOf]
  refine ⟨?_, fun i j => ?_, fun i j hi hj => ?_, fun e he => ?_⟩
  · rw [cellEntries_indexes g _ hn]
    exact setPositions_sorted _
  · exact mem_cellPairs g _ hn i j
  · rw [cellMaskAt_getLsbD hn (mul_add_lt_mul hi hj), Nat.add_assoc _ (_ * _)]
  · obtain ⟨k, hk, rfl⟩ := mem_cellEntries he
    have hid := cellEntryAt_sigid (g := g) (x := variantOf x) hn hk
    obtain ⟨hpos, h32, hbit⟩ := (mem_ids _ _).1 (List.mem_of_getElem? hid)
    rw [sigIds, map_succ_setPositions] at hid
    exact ⟨hbit, hpos, h32, hid⟩

/-! ### The body (R212) -/

theorem variantOf_zero : variantOf 0 = .compact := rfl

theorem variantOf_one : variantOf 1 = .extended := rfl

theorem fieldU_at {m : Memory} {p q a w : Nat} (h : 8 * p + q = a) : fieldU m p q w = getU m a w := by rw [fieldU, h]

theorem fieldS_at {m : Memory} {p q a w : Nat} (h : 8 * p + q = a) : fieldS m p q w = getS m a w := by rw [fieldS, h]

section Body

variable (c : MsmCfg) (m : Memory) (g : GnssSys) (x : Variant) (p k : Nat)

/-- The fields whose width no configuration changes fit their registers. -/
theorem satEntryAt_int : (satEntryAt c m g x p k).int.toNat = fieldU m p (qBody c m p + k * 8) 8 :=
  ofNat_getU_toNat m _ le_rfl

theorem satEntryAt_frac : (satEntryAt c m g x p k).frac.toNat = fieldU m p (qFrac c m x p + k * 10) 10 :=
  ofNat_getU_toNat m _ le_rfl

theorem cellEntryAt_fpr : (cellEntryAt c m g x p k).fpr.toInt = fieldS m p (qFpr c m x p + k * wFpr x) (wFpr x) :=
  ofInt_getS_toInt m _ (by cases x <;> decide) (by cases x <;> decide)

theorem cellEntryAt_fcp : (cellEntryAt c m g x p k).fcp.toInt = fieldS m p (qFcp c m x p + k * wFcp x) (wFcp x) :=
  ofInt_getS_toInt m _ (by cases x <;> decide) (by cases x <;> decide)

theorem cellEntryAt_lock :
    (cellEntryAt c m g x p k).lock.toNat = fieldU m p (qLock c m x p + k * wLock x) (wLock x) :=
  ofNat_getU_toNat m _ (by cases x <;> decide)

theorem cellEntryAt_half : (cellEntryAt c m g x p k).half.toNat = fieldU m p (qHalf c m x p + k * 1) 1 :=
  ofNat_getU_toNat m _ le_rfl

theorem cellEntryAt_cnr : (cellEntryAt c m g x p k).cnr.toNat = fieldU m p (qCnr c m x p + k * wCnr x) (wCnr x) :=
  ofNat_getU_toNat m _ (by cases x <;> decide)

/-- The fields of configured width fit with the default constants. -/
theorem satEntryAt_ext : (satEntryAt msmStandard m g .extended p k).ext.toNat =
    fieldU m p (qExt msmStandard m p + k * 4) 4 := ofNat_getU_toNat m _ le_rfl

theorem satEntryAt_rr : (satEntryAt msmStandard m g .extended p k).rr.toInt =
    fieldS m p (qRr msmStandard m .extended p + k * 14) 14 := ofInt_getS_toInt m _ (by decide) le_rfl

theorem cellEntryAt_frr : (cellEntryAt msmStandard m g .extended p k).frr.toInt =
    fieldS m p (qFrr msmStandard m .extended p + k * 15) 15 := ofInt_getS_toInt m _ (by decide) le_rfl

end Body

/-- Where the blocks of the compact body start: 18 bits a satellite, 48 a cell. -/
theorem compact_positions (m : Memory) (p : Nat) :
    qBody msmStandard m p = 169 + nSat msmStandard m p * nSig msmStandard m p ∧
    qFrac msmStandard m .compact p = qBody msmStandard m p + 8 * nSat msmStandard m p ∧
    qFpr msmStandard m .compact p = qBody msmStandard m p + 18 * nSat msmStandard m p ∧
    qFcp msmStandard m .compact p = qFpr msmStandard m .compact p + 15 * nCell msmStandard m p ∧
    qLock msmStandard m .compact p = qFpr msmStandard m .compact p + 37 * nCell msmStandard m p ∧
    qHalf msmStandard m .compact p = qFpr msmStandard m .compact p + 41 * nCell msmStandard m p ∧
    qCnr msmStandard m .compact p = qFpr msmStandard m .compact p + 42 * nCell msmStandard m p := by
  refine ⟨rfl, ?_⟩
  simp only [qExt, qFrac, qRr, qFpr, qFcp, qLock, qHalf, qCnr, wExt, wRr, wFpr, wFcp, wLock]
  omega

/-- Settles O51: each field at its position. -/
theorem msmCompactBodyFields : Obligations.MsmCompactBodyFields := by
  intro s sys z p l g hc h
  obtain ⟨t, ht, hfile, hnsat, hnsig, hncell, -⟩ := msmdec_file h
  refine ⟨t, _, _, _, _, ht, rfl, rfl, rfl, rfl, ?_⟩
  rw [hnsat, hnsig, hncell, hfile, hc, variantOf_zero]
  generalize s.buf = m
  generalize p.toNat = p
  obtain ⟨hbody, hfrac, hfpr, hfcp, hlock, hhalf, hcnr⟩ := compact_positions m p
  refine ⟨fun i e he => ?_, fun j e he => ?_⟩
  · obtain ⟨-, rfl⟩ := satEntries_get he
    rw [satEntryAt_int, satEntryAt_frac]
    exact ⟨fieldU_at (by omega), fieldU_at (by omega), rfl, rfl, rfl⟩
  · obtain ⟨-, rfl⟩ := cellEntries_get he
    rw [cellEntryAt_fpr, cellEntryAt_fcp, cellEntryAt_lock, cellEntryAt_half, cellEntryAt_cnr]
    simp only [wFpr, wFcp, wLock, wCnr]
    exact ⟨fieldS_at (by omega), fieldS_at (by omega), fieldU_at (by omega), fieldU_at (by omega), fieldU_at (by omega),
      rfl⟩

/-- Where the blocks of the extended body start: 36 bits a satellite, 80 a cell. -/
theorem extended_positions (m : Memory) (p : Nat) :
    qBody msmStandard m p = 169 + nSat msmStandard m p * nSig msmStandard m p ∧
    qExt msmStandard m p = qBody msmStandard m p + 8 * nSat msmStandard m p ∧
    qFrac msmStandard m .extended p = qBody msmStandard m p + 12 * nSat msmStandard m p ∧
    qRr msmStandard m .extended p = qBody msmStandard m p + 22 * nSat msmStandard m p ∧
    qFpr msmStandard m .extended p = qBody msmStandard m p + 36 * nSat msmStandard m p ∧
    qFcp msmStandard m .extended p = qFpr msmStandard m .extended p + 20 * nCell msmStandard m p ∧
    qLock msmStandard m .extended p = qFpr msmStandard m .extended p + 44 * nCell msmStandard m p ∧
    qHalf msmStandard m .extended p = qFpr msmStandard m .extended p + 54 * nCell msmStandard m p ∧
    qCnr msmStandard m .extended p = qFpr msmStandard m .extended p + 55 * nCell msmStandard m p ∧
    qFrr msmStandard m .extended p = qFpr msmStandard m .extended p + 65 * nCell msmStandard m p := by
  have hext : wExt msmStandard .extended = 4 := rfl
  have hrr : wRr msmStandard .extended = 14 := rfl
  refine ⟨rfl, ?_⟩
  simp only [qExt, qFrac, qRr, qFpr, qFcp, qLock, qHalf, qCnr, qFrr, hext, hrr, wFpr, wFcp, wLock, wCnr]
  omega

/-- Settles O52: each field at its position; the validity of the rough rate by its definition. -/
theorem msmExtendedBodyFields : Obligations.MsmExtendedBodyFields := by
  intro s sys z p l g hc h
  obtain ⟨t, ht, hfile, hnsat, hnsig, hncell, -⟩ := msmdec_file h
  refine ⟨t, _, _, _, _, ht, rfl, rfl, rfl, rfl, ?_⟩
  rw [hnsat, hnsig, hncell, hfile, hc, variantOf_one]
  generalize s.buf = m
  generalize p.toNat = p
  obtain ⟨hbody, hext, hfrac, hrr, hfpr, hfcp, hlock, hhalf, hcnr, hfrr⟩ := extended_positions m p
  refine ⟨fun i e he => ?_, fun j e he => ?_⟩
  · obtain ⟨-, rfl⟩ := satEntries_get he
    rw [satEntryAt_int, satEntryAt_ext, satEntryAt_frac, satEntryAt_rr]
    refine ⟨fieldU_at (by omega), fieldU_at (by omega), fieldU_at (by omega), fieldS_at (by omega), ?_⟩
    rw [← satEntryAt_rr m g]
    rfl
  · obtain ⟨-, rfl⟩ := cellEntries_get he
    rw [cellEntryAt_fpr, cellEntryAt_fcp, cellEntryAt_lock, cellEntryAt_half, cellEntryAt_cnr, cellEntryAt_frr]
    simp only [wFpr, wFcp, wLock, wCnr]
    exact ⟨fieldS_at (by omega), fieldS_at (by omega), fieldU_at (by omega), fieldU_at (by omega), fieldU_at (by omega),
      fieldS_at (by omega)⟩

/-! ### Reconstruction (R214, R224 to R227) -/

theorem roughRange_toNat (int : BitVec 8) (frac : BitVec 10) :
    (roughRange int frac).toNat = if int = 255 then 0 else int.toNat * 1024 + frac.toNat := by
  rw [roughRange]
  split
  · rfl
  · rw [BitVec.toNat_ofNat, Nat.mod_eq_of_lt (by omega)]

/-- A full range fits 64 bits, whatever the unit of its fine part. -/
theorem ofInt_fullRange_toInt (a : SatEntry) {n : Nat} (hn : n ≤ 24) (fine : BitVec n) (unit : Nat) :
    (BitVec.ofInt 64 (fullRange a fine.toInt unit)).toInt = fullRange a fine.toInt unit := by
  have hrough : (a.roughq.toNat : Int) < 2 ^ 18 := by exact_mod_cast a.roughq.isLt
  have hwidth : (2 : Int) ^ n ≤ 2 ^ 24 := pow_le_pow_right₀ one_le_two hn
  have hlo := BitVec.le_two_mul_toInt (x := fine)
  have hhi := BitVec.two_mul_toInt_lt (x := fine)
  have hfine : |fine.toInt| ≤ 2 ^ 24 := abs_le.2 ⟨by omega, by omega⟩
  have hunit : (2 : Int) ^ (31 - unit) ≤ 2 ^ 31 := pow_le_pow_right₀ one_le_two (by omega)
  have hpos : (0 : Int) < 2 ^ (31 - unit) := by positivity
  have hscaled : |fine.toInt * 2 ^ (31 - unit)| ≤ 2 ^ 24 * 2 ^ 31 := by
    rw [abs_mul, abs_of_pos hpos]
    exact mul_le_mul hfine hunit hpos.le (by positivity)
  obtain ⟨hmin, hmax⟩ := abs_le.1 hscaled
  rw [fullRange]
  exact BitVec.toInt_ofInt_eq_self (by decide) (by omega) (by omega)

section Reconstruction

variable (c : MsmCfg) (m : Memory) (x : Variant) (p k i j : Nat) (a : SatEntry)

theorem cellEntryOf_prv : (cellEntryOf c m x p k i j a).prv =
    (decide (a.roughq ≠ 0) && decide ((cellEntryOf c m x p k i j a).fpr.toInt ≠ mostNegative (wFpr x))) := by
  simp [cellEntryOf, satAbsent]

theorem cellEntryOf_cpv : (cellEntryOf c m x p k i j a).cpv =
    (decide (a.roughq ≠ 0) && decide ((cellEntryOf c m x p k i j a).fcp.toInt ≠ mostNegative (wFcp x))) := by
  simp [cellEntryOf, satAbsent]

/-- The two sums are exact where they are present (R224, R225). -/
theorem cellEntryOf_prq : (cellEntryOf c m x p k i j a).prq.toInt =
    if (cellEntryOf c m x p k i j a).prv then fullRange a (cellEntryOf c m x p k i j a).fpr.toInt (eFpr c x) else 0 := by
  rw [← ofInt_fullRange_toInt a (by decide) (cellEntryOf c m x p k i j a).fpr, ← BitVec.toInt_zero, ← apply_ite]
  rfl

theorem cellEntryOf_cpq : (cellEntryOf c m x p k i j a).cpq.toInt =
    if (cellEntryOf c m x p k i j a).cpv then fullRange a (cellEntryOf c m x p k i j a).fcp.toInt (eFcp c x) else 0 := by
  rw [← ofInt_fullRange_toInt a (by decide) (cellEntryOf c m x p k i j a).fcp, ← BitVec.toInt_zero, ← apply_ite]
  rfl

/-- The rate in units of its fine part fits 32 bits (R227). -/
theorem ofInt_rate_toInt (rr : BitVec 14) (frr : BitVec 15) :
    (BitVec.ofInt 32 (rr.toInt * 10000 + frr.toInt)).toInt = rr.toInt * 10000 + frr.toInt := by
  have hrr := BitVec.le_toInt rr
  have hrr' := BitVec.toInt_lt (x := rr)
  have hfrr := BitVec.le_toInt frr
  have hfrr' := BitVec.toInt_lt (x := frr)
  exact BitVec.toInt_ofInt_eq_self (by decide) (by omega) (by omega)

theorem cellEntryOf_rrq : (cellEntryOf msmStandard m x p k i j a).rrq.toInt =
    if (cellEntryOf msmStandard m x p k i j a).rrv then
      a.rr.toInt * 10000 + (cellEntryOf msmStandard m x p k i j a).frr.toInt else 0 := by
  rw [← ofInt_rate_toInt, ← BitVec.toInt_zero, ← apply_ite]
  rfl

theorem cellEntryOf_cnrq (h : cnrMul c x ≤ 16) : (cellEntryOf c m x p k i j a).cnrq.toNat =
    (cellEntryOf c m x p k i j a).cnr.toNat * cnrMul c x := by
  have hcnr : (cellEntryOf c m x p k i j a).cnr.toNat ≤ 1023 := by omega
  have hmul : (cellEntryOf c m x p k i j a).cnr.toNat * cnrMul c x ≤ 1023 * 16 := Nat.mul_le_mul hcnr h
  exact Nat.mod_eq_of_lt (hmul.trans_lt (by decide))

end Reconstruction

/-- What the variant chooses of the default constants (R203, R217). -/
theorem standard_constants (x : BitVec 1) :
    mostNegative (wFpr (variantOf x)) = (if x = 1 then -2 ^ 19 else -2 ^ 14) ∧
    mostNegative (wFcp (variantOf x)) = (if x = 1 then -2 ^ 23 else -2 ^ 21) ∧
    (2 : Int) ^ (31 - eFpr msmStandard (variantOf x)) = (if x = 1 then 4 else 128) ∧
    (2 : Int) ^ (31 - eFcp msmStandard (variantOf x)) = (if x = 1 then 1 else 4) ∧
    cnrMul msmStandard (variantOf x) = (if x = 1 then 1 else 16) := by
  revert x
  decide

theorem rateValid_standard (x : BitVec 1) (a : SatEntry) (frr : BitVec 15) :
    rateValid msmStandard (variantOf x) a frr = (decide (x = 1) && a.rrv && decide (frr.toInt ≠ -16384)) := by
  obtain rfl | rfl := BitVec.eq_zero_or_eq_one x <;> rfl

/-- Settles O53: the sums by the lemmas above, with the constants of the variant. -/
theorem msmReconstruction : Obligations.MsmReconstruction := by
  intro s sys z x p l g hc h
  obtain ⟨t, ht, hfile, -, -, -, hn⟩ := msmdec_file h
  refine ⟨t, ht, ?_⟩
  rw [hfile, hc, msmFileOf]
  rw [hc] at hn
  generalize s.buf = m at *
  generalize p.toNat = p at *
  refine ⟨fun e he => ?_, fun e he => ?_⟩
  · obtain ⟨i, -, rfl⟩ := List.mem_map.1 he
    exact roughRange_toNat _ _
  obtain ⟨k, hk, rfl⟩ := mem_cellEntries he
  refine ⟨_, by rw [cellEntryAt_sat hn hk]; exact satEntries_getElem? g _ (cellIndex_pair hn hk).1, ?_⟩
  rw [cellEntryAt]
  generalize satEntryAt msmStandard m g (variantOf x) p (cellIndex msmStandard m p k / nSig msmStandard m p) = a
  obtain ⟨hfpr, hfcp, hefpr, hefcp, hcnr⟩ := standard_constants x
  rw [← hfpr, ← hfcp, ← hefpr, ← hefcp, ← hcnr]
  exact ⟨cellEntryOf_prv .., cellEntryOf_prq .., cellEntryOf_cpv .., cellEntryOf_cpq .., rateValid_standard ..,
    cellEntryOf_rrq .., cellEntryOf_cnrq (h := by rw [hcnr]; split <;> decide) ..⟩

end Sys2Proof.Machine
end

section
/-! Proofs for 43_msm.md, R231: when `MSMRD` is refused, and the element each selector delivers. -/

namespace Sys2Proof.Machine

section Msmrd

variable {s : State} {sel : BitVec 8} {idx : BitVec 16}

theorem msmrd_refused (h : s.mvalid = false ∨ msmElem s.msm sel idx = none) :
    exec (.msmrd sel idx) s = .next { s with ill := true } := by
  obtain h | h := h <;> simp [exec, execMsmrd, refuse, h]

theorem msmrd_delivers {e : MsmElem} (hv : s.mvalid = true) (h : msmElem s.msm sel idx = some e) :
    exec (.msmrd sel idx) s = .next (deliverElem e s) := by
  simp [exec, execMsmrd, hv, h]

end Msmrd

/-- Selector `0x4F` as a number: the four flags at weights 1, 2, 4, 8. -/
theorem cellFlags_setWidth (c : CellEntry) : (cellFlags c).setWidth 32 =
    BitVec.ofNat 32 (c.prv.toNat + 2 * c.cpv.toNat + 4 * c.rrv.toNat + 8 * c.half.toNat) := by
  have flags : ∀ (h : BitVec 1) (r c p : Bool),
      (h ++ BitVec.ofBool r ++ BitVec.ofBool c ++ BitVec.ofBool p : BitVec 4).setWidth 32 =
        BitVec.ofNat 32 (p.toNat + 2 * c.toNat + 4 * r.toNat + 8 * h.toNat) := by decide
  exact flags ..

theorem selIsHeader_iff (sel : BitVec 8) : selIsHeader sel = true ↔ sel.toNat ≤ 0x13 := by simp [selIsHeader]

theorem selIsSat_iff (sel : BitVec 8) : selIsSat sel = true ↔ 0x20 ≤ sel.toNat ∧ sel.toNat ≤ 0x27 := by
  simp [selIsSat]

theorem selIsCell_iff (sel : BitVec 8) :
    selIsCell sel = true ↔ (0x40 ≤ sel.toNat ∧ sel.toNat ≤ 0x4C) ∨ sel.toNat = 0x4F := by
  simp [selIsCell]

/-- R231's refusals but for an invalid file: an unlisted selector, or an index at or above the count. -/
theorem msmElem_refused {f : MsmFile} {sel : BitVec 8} {idx : BitVec 16}
    (h : (0x14 ≤ sel.toNat ∧ sel.toNat ≤ 0x1F) ∨ (0x28 ≤ sel.toNat ∧ sel.toNat ≤ 0x3F) ∨ sel = 0x4D ∨ sel = 0x4E ∨
      0x50 ≤ sel.toNat ∨ (0x20 ≤ sel.toNat ∧ sel.toNat ≤ 0x27 ∧ f.hdr.nsat.toNat ≤ idx.toNat) ∨
      (0x40 ≤ sel.toNat ∧ sel.toNat ≤ 0x4F ∧ f.hdr.ncell.toNat ≤ idx.toNat)) : msmElem f sel idx = none := by
  by_cases hsat : selIsSat sel = true
  · have hbeyond : ¬ idx.toNat < f.hdr.nsat.toNat := by rw [selIsSat_iff] at hsat; bv_omega
    rw [msmElem, if_pos hsat, if_neg hbeyond]
  by_cases hcell : selIsCell sel = true
  · have hbeyond : ¬ idx.toNat < f.hdr.ncell.toNat := by rw [selIsCell_iff] at hcell; bv_omega
    rw [msmElem, if_neg hsat, if_pos hcell, if_neg hbeyond]
  have hhdr : ¬ selIsHeader sel = true := by
    rw [selIsSat_iff] at hsat
    rw [selIsCell_iff] at hcell
    rw [selIsHeader_iff]
    bv_omega
  exact msmElem_unlisted f idx (by simp [selInRange, hhdr, hsat, hcell])

/-- A row of the file's table gives the element `MSMRD` delivers. -/
theorem msmrd_rows {α : Type} {s : State} {idx : BitVec 16} (elem : α → MsmElem) {rows : List (BitVec 8 × α)}
    (hv : s.mvalid = true) (h : ∀ e ∈ rows, msmElem s.msm e.1 idx = some (elem e.2)) :
    ∀ e ∈ rows, exec (.msmrd e.1 idx) s = .next (deliverElem (elem e.2) s) :=
  fun e he => msmrd_delivers hv (h e he)

/-- Settles O54: the refusals by `msmElem_refused`; each selector by its row of the table of its part of the file. -/
theorem msmrdReadsTheResultFile : Obligations.MsmrdReadsTheResultFile := by
  refine ⟨fun s sel idx h => msmrd_refused (h.imp_right msmElem_refused), fun s idx hv =>
    ⟨msmrd_rows .w32 hv ?_, msmrd_rows .w64 hv ?_, fun a hidx ha => msmrd_rows .w32 hv ?_,
      fun a hidx ha => ⟨msmrd_rows .w32 hv ?_, msmrd_rows .w64 hv ?_⟩⟩⟩
  case refine_1 | refine_2 => simp [msmElem, selIsSat, selIsCell, msmHeaderElem]
  case refine_3 => simp [msmElem, selIsSat, hidx, ha, msmSatElem]
  case refine_4 | refine_5 => simp [msmElem, selIsSat, selIsCell, hidx, ha, msmCellElem, cellFlags_setWidth]

end Sys2Proof.Machine
end

section
/-! Proofs for 44_system.md: the system commands `NOP`, `STAT` and `GETR` (R240 to R242). -/

namespace Sys2Proof.Machine

/-- `GETR` of a register that has a number delivers it in `RES0` and changes nothing else (R242). -/
theorem exec_getr_of_regValue {s : State} {reg : BitVec 8} {v : Word} (h : regValue s reg = some v) :
    exec (.getr reg) s = .next { s with res0 := v } := by
  simp only [exec, execGetr, h, setRes0]

/-- `GETR` of a reserved register number (R242) is one of the commands with an operand out of range (R79). -/
theorem exec_getr_reserved {reg : BitVec 8} (s : State) (h : 0x0F < reg.toNat) :
    exec (.getr reg) s = .next { s with ill := true } :=
  illFormedOperandsAreRefused (.getr reg) s (decide_eq_false h.not_ge)

/-- Settles O21: `NOP` and `STAT` by definition, `GETR` by the register table `regValue`, read row by row. -/
theorem systemCommandsReadTheRegisters : Obligations.SystemCommandsReadTheRegisters := by
  refine fun s => ⟨rfl, rfl, fun reg h => exec_getr_reserved s h, fun e he => exec_getr_of_regValue ?_⟩
  fin_cases he <;> rfl

end Sys2Proof.Machine
end

section
/-! Proofs for 60_exceptions.md: the records a command appends to the event output (R252, R254). -/

namespace Sys2Proof.Machine

/-- Settles O56: only the framer's step and `MSMDEC` append; their records are those of `framerStep_one` and
`msmRun_cases`. -/
theorem atMostOneEventPerCommand : Obligations.AtMostOneEventPerCommand := by
  intro i s t h
  cases exec_effect h with
  | refused => exact .inl rfl
  | registers => exact .inl rfl
  | bytes => exact .inl rfl
  | reset => exact .inl rfl
  | push b _ hc =>
    obtain ⟨-, hevents, -⟩ := framerStep_one b (clearPushFlags s)
    obtain ⟨hev, -⟩ | ⟨id, bs, o, l, hev, -⟩ | ⟨k, id, hk, hev, -⟩ := hevents
    · exact .inl hev
    · exact .inr ⟨_, hev, .inl ⟨rfl, id, bs, o, l, rfl⟩⟩
    · exact .inr ⟨_, hev, .inr (.inl ⟨rfl, k, id, hk, rfl⟩)⟩
  | msmdec sys z x p l _ g =>
    obtain ⟨k, hk, hrun⟩ | ⟨-, hrun⟩ := msmRun_cases g (variantOf x) p.toNat l.toNat s
    · exact .inr ⟨_, congrArg State.events hrun, .inr (.inr (.inr ⟨rfl, k, _, hk, rfl⟩))⟩
    · exact .inr ⟨_, congrArg State.events hrun, .inr (.inr (.inl ⟨rfl, by rw [hrun]⟩))⟩

end Sys2Proof.Machine
end
